-- ==== Sys2Proof/Word.lean ====
section
/-! DEFINITION. Word.lean: the widths of the machine's data (spec 00_scope.md R4, R6). All values are unsigned. -/

namespace Sys2Proof

/-- A byte: 8 bits, bit 0 the least significant (R6). The width of V0 to VF, DT, ST and of every memory cell (R4). -/
abbrev Byte := BitVec 8

/-- A 16-bit word: PC, I, a stack entry, an instruction word (R4, R6). -/
abbrev Word := BitVec 16

/-- The 12-bit address field nnn of an instruction (R71, R73). -/
abbrev Addr12 := BitVec 12

/-- A general register index, 0 to 15 (R20). -/
abbrev Reg := Fin 16

/-- A key index, 0 to 15 (R28). -/
abbrev Key := Fin 16

end Sys2Proof
end

