-- ==== Sys2Proof/Config.lean ====
section
/-! DEFINITION. Config.lean: the implementation parameters of 00_scope.md R4 whose value a realisation chooses, with the
spec's defaults, and the free values. A `Config` is plain data carried by the state and changed by no step. -/

namespace Sys2Proof

/-- `ANNN_POLICY` (R4, R130, decision D1): the meaning of words 0xA000 to 0xAFFF. -/
inductive AnnnPolicy where
  | loadIndex
  | unsupported
deriving DecidableEq, Repr

/-- `KEY_SELECT` (R4, R152, decision D6): which of several pressed keys Fx0A takes. `anyPressed` is the normative
requirement (some pressed key, otherwise free); `lowestIndex` is the spec's default. -/
inductive KeySelect where
  | lowestIndex
  | anyPressed
deriving DecidableEq, Repr

/-- `RAND_SET` (R4, R34, decision D5): the non-empty set the random byte of Cxnn is drawn from, all of 0 to 255
(`fullByte`, the default) or the bytes listed. -/
inductive RandSet where
  | fullByte
  | only (first : Byte) (rest : List Byte)
deriving DecidableEq, Repr

/-- Membership of a byte in `RAND_SET`. -/
def RandSet.has : RandSet → Byte → Bool
  | .fullByte, _ => true
  | .only first rest, b => (first :: rest).contains b

/-- The parameters of R4 that change behaviour. -/
structure Config where
  /-- `STACK_DEPTH`: `none` is the unbounded stack of the document (R24, R163, decision D4). -/
  stackDepth : Option Nat
  annnPolicy : AnnnPolicy
  keySelect  : KeySelect
  randSet    : RandSet
  /-- `FONT`: 80 bytes, 16 glyphs of 5 rows (R26, decision D2). -/
  font       : Vector Byte 80
  /-- `MEM_FILL`: every byte outside the font after reset (R26, decision D8). -/
  memFill    : Byte
deriving DecidableEq, Repr

/-- The default `FONT`: digits 0 to 7 (R26). -/
def Config.glyphs0to7 : List Byte :=
  [0xF0, 0x90, 0x90, 0x90, 0xF0] ++ [0x20, 0x60, 0x20, 0x20, 0x70] ++
  [0xF0, 0x10, 0xF0, 0x80, 0xF0] ++ [0xF0, 0x10, 0xF0, 0x10, 0xF0] ++
  [0x90, 0x90, 0xF0, 0x10, 0x10] ++ [0xF0, 0x80, 0xF0, 0x10, 0xF0] ++
  [0xF0, 0x80, 0xF0, 0x90, 0xF0] ++ [0xF0, 0x10, 0x20, 0x40, 0x40]

/-- The default `FONT`: digits 8 to F (R26). -/
def Config.glyphs8toF : List Byte :=
  [0xF0, 0x90, 0xF0, 0x90, 0xF0] ++ [0xF0, 0x90, 0xF0, 0x10, 0xF0] ++
  [0xF0, 0x90, 0xF0, 0x90, 0x90] ++ [0xE0, 0x90, 0xE0, 0x90, 0xE0] ++
  [0xF0, 0x80, 0x80, 0x80, 0xF0] ++ [0xE0, 0x90, 0x90, 0x90, 0xE0] ++
  [0xF0, 0x80, 0xF0, 0x80, 0xF0] ++ [0xF0, 0x80, 0xF0, 0x80, 0x80]

/-- The default `FONT` of R26 (the spec's own general knowledge, decision D2; log entry 4). -/
def Config.defaultFont : Vector Byte 80 :=
  ⟨(Config.glyphs0to7 ++ Config.glyphs8toF).toArray, by decide⟩

/-- Every parameter at its default (R4). -/
def Config.default : Config :=
  { stackDepth := none
    annnPolicy := .loadIndex
    keySelect  := .lowestIndex
    randSet    := .fullByte
    font       := Config.defaultFont
    memFill    := 0 }

/-- FONT_BASE = 0x50 (R4). -/
def Config.fontBase : Nat := 0x50

/-- PROG_BASE = 512, the reset value of PC and the start of the ROM region (R4, R22, R203). -/
def Config.progBase : Nat := 512

/-- MEM_SIZE = 4096 (R4). -/
def Config.memSize : Nat := 4096

/-- What memory holds after a reset, and so what an address that the memory list does not list reads as: the font at
0x50 to 0x9F, `MEM_FILL` elsewhere (R26). -/
def Config.resetByte (c : Config) (a : Nat) : Byte :=
  if h : Config.fontBase ≤ a ∧ a - Config.fontBase < 80 then c.font[a - Config.fontBase]'h.2 else c.memFill

/-- FREE VALUE. The n-th random byte of Cxnn under the full `RAND_SET` (R34: a model must assume nothing of the value
beyond membership). No body: nothing can be proved of it (log entry 2). -/
opaque Config.freeByte : Nat → Byte

/-- FREE VALUE. The n-th free choice among finitely many (an element of a listed `RAND_SET`, a key among the pressed
ones under `anyPressed`), taken modulo their number. No body (log entry 2). -/
opaque Config.freeIndex : Nat → Nat

end Sys2Proof
end

