-- ==== Sys2Proof/Syntax.lean ====
section
/-! DEFINITION. Syntax.lean: the 34 instructions of spec/opcode_table.json (30_encoding.md R75), one constructor a row.
Operand fields carry the widths of R71 and R73: x, y and n are 4 bits (every value legal), nn is 8 bits, nnn is 12. -/

namespace Sys2Proof

/-- An instruction with its decoded operand fields. -/
inductive Instr where
  | cls
  | ret
  | jp (nnn : Addr12)
  | call (nnn : Addr12)
  | sei (x : Reg) (nn : Byte)
  | snei (x : Reg) (nn : Byte)
  | ser (x y : Reg)
  | ldi (x : Reg) (nn : Byte)
  | addi (x : Reg) (nn : Byte)
  | mov (x y : Reg)
  | or (x y : Reg)
  | and (x y : Reg)
  | xor (x y : Reg)
  | add (x y : Reg)
  | sub (x y : Reg)
  | shr (x y : Reg)
  | subn (x y : Reg)
  | shl (x y : Reg)
  | sner (x y : Reg)
  | ldidx (nnn : Addr12)
  | jpv0 (nnn : Addr12)
  | rnd (x : Reg) (nn : Byte)
  | drw (x y n : Fin 16)
  | skp (x : Reg)
  | sknp (x : Reg)
  | lddt (x : Reg)
  | ldk (x : Reg)
  | stdt (x : Reg)
  | stst (x : Reg)
  | addidx (x : Reg)
  | ldfont (x : Reg)
  | bcd (x : Reg)
  | stm (x : Reg)
  | ldm (x : Reg)
deriving DecidableEq, Repr

end Sys2Proof
end

