-- ==== Sys2Proof/WellFormed.lean ====
section
/-! DEFINITION. WellFormed.lean: which terms of `Instr` are instructions of the block. Field ranges are in the types (R73: all
16 register indices are legal, every immediate is unsigned and of its field's width), so the one check left is the opcode
table's own: with `ANNN_POLICY = unsupported` the row LDIDX is removed (opcode_table.json, R76, R130). -/

namespace Sys2Proof

/-- The instruction's row is in the opcode table of a block with these parameters. -/
def Instr.wellFormed (c : Config) : Instr → Bool
  | .ldidx _ => decide (c.annnPolicy = .loadIndex)
  | .cls | .ret | .jp _ | .call _ | .sei _ _ | .snei _ _ | .ser _ _ | .ldi _ _ | .addi _ _ | .mov _ _ | .or _ _
  | .and _ _ | .xor _ _ | .add _ _ | .sub _ _ | .shr _ _ | .subn _ _ | .shl _ _ | .sner _ _ | .jpv0 _ | .rnd _ _
  | .drw _ _ _ | .skp _ | .sknp _ | .lddt _ | .ldk _ | .stdt _ | .stst _ | .addidx _ | .ldfont _ | .bcd _ | .stm _
  | .ldm _ => true

end Sys2Proof
end

