-- ==== Sys2Proof/Decode.lean ====
section
/-! DEFINITION. Decode.lean: instruction words (30_encoding.md): fields and formats (R70 to R73), the opcode map as data
(R75), the decoder (R74) and the encoder. -/

namespace Sys2Proof

/-! ### Fields of the instruction word (R71) -/

/-- Bits 15:12, the family. -/
def fieldFamily (op : Word) : BitVec 4 := op.extractLsb' 12 4
/-- Bits 11:8, the index of Vx. -/
def fieldX (op : Word) : Fin 16 := (op.extractLsb' 8 4).toFin
/-- Bits 7:4, the index of Vy. -/
def fieldY (op : Word) : Fin 16 := (op.extractLsb' 4 4).toFin
/-- Bits 3:0, the row count of Dxyn or a sub-opcode. -/
def fieldN (op : Word) : Fin 16 := (op.extractLsb' 0 4).toFin
/-- Bits 7:0, the 8-bit immediate or a sub-opcode. -/
def fieldNN (op : Word) : Byte := op.extractLsb' 0 8
/-- Bits 11:0, the 12-bit address. -/
def fieldNNN (op : Word) : Addr12 := op.extractLsb' 0 12

/-! ### Formats (R72): the word of a family and its fields, most significant first -/

/-- Format A: family, nnn. -/
def wordA (family : BitVec 4) (nnn : Addr12) : Word := family ++ nnn
/-- Format I: family, x, nn (and format X, whose low byte is the function). -/
def wordI (family : BitVec 4) (x : Reg) (nn : Byte) : Word := family ++ ((BitVec.ofFin x : BitVec 4) ++ nn)
/-- Format R: family, x, y, sub-opcode (and format D, whose low nibble is n). -/
def wordR (family : BitVec 4) (x y n : Fin 16) : Word :=
  family ++ ((BitVec.ofFin x : BitVec 4) ++ ((BitVec.ofFin y : BitVec 4) ++ (BitVec.ofFin n : BitVec 4)))

/-! ### Byte order (R52, R70): the byte at the lower address is bits 15:8 -/

/-- `b1 :: b2`. -/
def wordOfBytes (b1 b2 : Byte) : Word := b1 ++ b2
/-- Byte 1, bits 15:8. -/
def highByte (op : Word) : Byte := op.extractLsb' 8 8
/-- Byte 2, bits 7:0. -/
def lowByte (op : Word) : Byte := op.extractLsb' 0 8

/-! ### The opcode map as data (R75) -/

/-- A row of the opcode map: a word selects it when `op &&& mask = pattern` (R74). -/
structure OpcodeRow where
  mnemonic : String
  mask     : Word
  pattern  : Word
deriving DecidableEq, Repr

/-- The word selects the row. -/
def OpcodeRow.selects (r : OpcodeRow) (op : Word) : Bool := op &&& r.mask == r.pattern

/-- Rows of families 0 to 7. -/
def opcodeRows0to7 : List OpcodeRow :=
  [⟨"CLS", 0xFFFF#16, 0x00E0#16⟩, ⟨"RET", 0xFFFF#16, 0x00EE#16⟩, ⟨"JP", 0xF000#16, 0x1000#16⟩, ⟨"CALL", 0xF000#16, 0x2000#16⟩,
   ⟨"SEI", 0xF000#16, 0x3000#16⟩, ⟨"SNEI", 0xF000#16, 0x4000#16⟩, ⟨"SER", 0xF00F#16, 0x5000#16⟩, ⟨"LDI", 0xF000#16, 0x6000#16⟩,
   ⟨"ADDI", 0xF000#16, 0x7000#16⟩]

/-- Rows of family 8. -/
def opcodeRows8 : List OpcodeRow :=
  [⟨"MOV", 0xF00F#16, 0x8000#16⟩, ⟨"OR", 0xF00F#16, 0x8001#16⟩, ⟨"AND", 0xF00F#16, 0x8002#16⟩, ⟨"XOR", 0xF00F#16, 0x8003#16⟩,
   ⟨"ADD", 0xF00F#16, 0x8004#16⟩, ⟨"SUB", 0xF00F#16, 0x8005#16⟩, ⟨"SHR", 0xF00F#16, 0x8006#16⟩, ⟨"SUBN", 0xF00F#16, 0x8007#16⟩,
   ⟨"SHL", 0xF00F#16, 0x800E#16⟩]

/-- Rows of families 9 to E. -/
def opcodeRows9toE : List OpcodeRow :=
  [⟨"SNER", 0xF00F#16, 0x9000#16⟩, ⟨"LDIDX", 0xF000#16, 0xA000#16⟩, ⟨"JPV0", 0xF000#16, 0xB000#16⟩, ⟨"RND", 0xF000#16, 0xC000#16⟩,
   ⟨"DRW", 0xF000#16, 0xD000#16⟩, ⟨"SKP", 0xF0FF#16, 0xE09E#16⟩, ⟨"SKNP", 0xF0FF#16, 0xE0A1#16⟩]

/-- Rows of family F. -/
def opcodeRowsF : List OpcodeRow :=
  [⟨"LDDT", 0xF0FF#16, 0xF007#16⟩, ⟨"LDK", 0xF0FF#16, 0xF00A#16⟩, ⟨"STDT", 0xF0FF#16, 0xF015#16⟩, ⟨"STST", 0xF0FF#16, 0xF018#16⟩,
   ⟨"ADDIDX", 0xF0FF#16, 0xF01E#16⟩, ⟨"LDFONT", 0xF0FF#16, 0xF029#16⟩, ⟨"BCD", 0xF0FF#16, 0xF033#16⟩, ⟨"STM", 0xF0FF#16, 0xF055#16⟩,
   ⟨"LDM", 0xF0FF#16, 0xF065#16⟩]

/-- The opcode map of R75, 34 rows. -/
def opcodeRows : List OpcodeRow := opcodeRows0to7 ++ opcodeRows8 ++ opcodeRows9toE ++ opcodeRowsF

/-- The row an instruction belongs to. -/
def Instr.row : Instr → OpcodeRow
  | .cls => ⟨"CLS", 0xFFFF#16, 0x00E0#16⟩
  | .ret => ⟨"RET", 0xFFFF#16, 0x00EE#16⟩
  | .jp _ => ⟨"JP", 0xF000#16, 0x1000#16⟩
  | .call _ => ⟨"CALL", 0xF000#16, 0x2000#16⟩
  | .sei _ _ => ⟨"SEI", 0xF000#16, 0x3000#16⟩
  | .snei _ _ => ⟨"SNEI", 0xF000#16, 0x4000#16⟩
  | .ser _ _ => ⟨"SER", 0xF00F#16, 0x5000#16⟩
  | .ldi _ _ => ⟨"LDI", 0xF000#16, 0x6000#16⟩
  | .addi _ _ => ⟨"ADDI", 0xF000#16, 0x7000#16⟩
  | .mov _ _ => ⟨"MOV", 0xF00F#16, 0x8000#16⟩
  | .or _ _ => ⟨"OR", 0xF00F#16, 0x8001#16⟩
  | .and _ _ => ⟨"AND", 0xF00F#16, 0x8002#16⟩
  | .xor _ _ => ⟨"XOR", 0xF00F#16, 0x8003#16⟩
  | .add _ _ => ⟨"ADD", 0xF00F#16, 0x8004#16⟩
  | .sub _ _ => ⟨"SUB", 0xF00F#16, 0x8005#16⟩
  | .shr _ _ => ⟨"SHR", 0xF00F#16, 0x8006#16⟩
  | .subn _ _ => ⟨"SUBN", 0xF00F#16, 0x8007#16⟩
  | .shl _ _ => ⟨"SHL", 0xF00F#16, 0x800E#16⟩
  | .sner _ _ => ⟨"SNER", 0xF00F#16, 0x9000#16⟩
  | .ldidx _ => ⟨"LDIDX", 0xF000#16, 0xA000#16⟩
  | .jpv0 _ => ⟨"JPV0", 0xF000#16, 0xB000#16⟩
  | .rnd _ _ => ⟨"RND", 0xF000#16, 0xC000#16⟩
  | .drw _ _ _ => ⟨"DRW", 0xF000#16, 0xD000#16⟩
  | .skp _ => ⟨"SKP", 0xF0FF#16, 0xE09E#16⟩
  | .sknp _ => ⟨"SKNP", 0xF0FF#16, 0xE0A1#16⟩
  | .lddt _ => ⟨"LDDT", 0xF0FF#16, 0xF007#16⟩
  | .ldk _ => ⟨"LDK", 0xF0FF#16, 0xF00A#16⟩
  | .stdt _ => ⟨"STDT", 0xF0FF#16, 0xF015#16⟩
  | .stst _ => ⟨"STST", 0xF0FF#16, 0xF018#16⟩
  | .addidx _ => ⟨"ADDIDX", 0xF0FF#16, 0xF01E#16⟩
  | .ldfont _ => ⟨"LDFONT", 0xF0FF#16, 0xF029#16⟩
  | .bcd _ => ⟨"BCD", 0xF0FF#16, 0xF033#16⟩
  | .stm _ => ⟨"STM", 0xF0FF#16, 0xF055#16⟩
  | .ldm _ => ⟨"LDM", 0xF0FF#16, 0xF065#16⟩

/-! ### The decoder (R74): literal, every fixed nibble must be present -/

/-- Family 0 holds the two words 0x00E0 and 0x00EE only (R74, R77). -/
def decodeFamily0 (op : Word) : Option Instr :=
  if op = 0x00E0#16 then some .cls else if op = 0x00EE#16 then some .ret else none

/-- Family 8, by the low nibble. -/
def decodeFamily8 (op : Word) : Option Instr :=
  match (fieldN op).val with
  | 0x0 => some (.mov (fieldX op) (fieldY op))
  | 0x1 => some (.or (fieldX op) (fieldY op))
  | 0x2 => some (.and (fieldX op) (fieldY op))
  | 0x3 => some (.xor (fieldX op) (fieldY op))
  | 0x4 => some (.add (fieldX op) (fieldY op))
  | 0x5 => some (.sub (fieldX op) (fieldY op))
  | 0x6 => some (.shr (fieldX op) (fieldY op))
  | 0x7 => some (.subn (fieldX op) (fieldY op))
  | 0xE => some (.shl (fieldX op) (fieldY op))
  | _ => none

/-- Family E, by the low byte. -/
def decodeFamilyE (op : Word) : Option Instr :=
  match (fieldNN op).toNat with
  | 0x9E => some (.skp (fieldX op))
  | 0xA1 => some (.sknp (fieldX op))
  | _ => none

/-- Family F, by the low byte. -/
def decodeFamilyF (op : Word) : Option Instr :=
  match (fieldNN op).toNat with
  | 0x07 => some (.lddt (fieldX op))
  | 0x0A => some (.ldk (fieldX op))
  | 0x15 => some (.stdt (fieldX op))
  | 0x18 => some (.stst (fieldX op))
  | 0x1E => some (.addidx (fieldX op))
  | 0x29 => some (.ldfont (fieldX op))
  | 0x33 => some (.bcd (fieldX op))
  | 0x55 => some (.stm (fieldX op))
  | 0x65 => some (.ldm (fieldX op))
  | _ => none

/-- The instruction of a 16-bit word, `none` for an unsupported opcode (R74 to R76). The mode never matters (R78). -/
def decodeWord (op : Word) : Option Instr :=
  match (fieldFamily op).toNat with
  | 0x0 => decodeFamily0 op
  | 0x1 => some (.jp (fieldNNN op))
  | 0x2 => some (.call (fieldNNN op))
  | 0x3 => some (.sei (fieldX op) (fieldNN op))
  | 0x4 => some (.snei (fieldX op) (fieldNN op))
  | 0x5 => if fieldN op = 0 then some (.ser (fieldX op) (fieldY op)) else none
  | 0x6 => some (.ldi (fieldX op) (fieldNN op))
  | 0x7 => some (.addi (fieldX op) (fieldNN op))
  | 0x8 => decodeFamily8 op
  | 0x9 => if fieldN op = 0 then some (.sner (fieldX op) (fieldY op)) else none
  | 0xA => some (.ldidx (fieldNNN op))
  | 0xB => some (.jpv0 (fieldNNN op))
  | 0xC => some (.rnd (fieldX op) (fieldNN op))
  | 0xD => some (.drw (fieldX op) (fieldY op) (fieldN op))
  | 0xE => decodeFamilyE op
  | 0xF => decodeFamilyF op
  | _ => none

/-- Why bytes give no instruction: an opcode of no row (R76), or fewer than two bytes (R70). -/
inductive DecodeError where
  | unsupported (op : Word)
  | truncated
deriving DecidableEq, Repr

/-- Decode the first instruction of a byte stream, with the bytes after it (R52, R70, R81). -/
def decode : List Byte → Except DecodeError (Instr × List Byte)
  | b1 :: b2 :: rest =>
    match decodeWord (wordOfBytes b1 b2) with
    | some i => .ok (i, rest)
    | none => .error (.unsupported (wordOfBytes b1 b2))
  | _ => .error .truncated

/-! ### The encoder, from the patterns of R72 and R75 -/

/-- The 16-bit word of an instruction. -/
def encodeWord : Instr → Word
  | .cls => 0x00E0
  | .ret => 0x00EE
  | .jp nnn => wordA 0x1 nnn
  | .call nnn => wordA 0x2 nnn
  | .sei x nn => wordI 0x3 x nn
  | .snei x nn => wordI 0x4 x nn
  | .ser x y => wordR 0x5 x y 0x0
  | .ldi x nn => wordI 0x6 x nn
  | .addi x nn => wordI 0x7 x nn
  | .mov x y => wordR 0x8 x y 0x0
  | .or x y => wordR 0x8 x y 0x1
  | .and x y => wordR 0x8 x y 0x2
  | .xor x y => wordR 0x8 x y 0x3
  | .add x y => wordR 0x8 x y 0x4
  | .sub x y => wordR 0x8 x y 0x5
  | .shr x y => wordR 0x8 x y 0x6
  | .subn x y => wordR 0x8 x y 0x7
  | .shl x y => wordR 0x8 x y 0xE
  | .sner x y => wordR 0x9 x y 0x0
  | .ldidx nnn => wordA 0xA nnn
  | .jpv0 nnn => wordA 0xB nnn
  | .rnd x nn => wordI 0xC x nn
  | .drw x y n => wordR 0xD x y n
  | .skp x => wordI 0xE x 0x9E
  | .sknp x => wordI 0xE x 0xA1
  | .lddt x => wordI 0xF x 0x07
  | .ldk x => wordI 0xF x 0x0A
  | .stdt x => wordI 0xF x 0x15
  | .stst x => wordI 0xF x 0x18
  | .addidx x => wordI 0xF x 0x1E
  | .ldfont x => wordI 0xF x 0x29
  | .bcd x => wordI 0xF x 0x33
  | .stm x => wordI 0xF x 0x55
  | .ldm x => wordI 0xF x 0x65

/-- The two bytes of an instruction, the byte at the lower address first (R52). -/
def encode (i : Instr) : List Byte := [highByte (encodeWord i), lowByte (encodeWord i)]

/-- The 16-bit instruction word of a table word: `nbits` bits of `w`, every bit above them 0. -/
def tableWord (nbits w : Nat) : Word := BitVec.ofNat 16 (w % 2 ^ nbits)

/-- The host's question: the instruction the decoder reads from the bytes of a table word, laid out as the hardware
stores them (R52). -/
def decodeTableWord (nbits w : Nat) : Option Instr :=
  match decode [highByte (tableWord nbits w), lowByte (tableWord nbits w)] with
  | .ok (i, _) => some i
  | .error _ => none

end Sys2Proof
end

