-- ==== Sys2Proof/Machine/State.lean ====
section
/-! DEFINITION. Machine/State.lean: every piece of state of 10_state.md under the spec's own name (upper case), the model's own
bookkeeping (lower case: the parameters, the reset latch, the free-value counter and the two input queues), the reasons a
step can stop, and the state after reset. -/

namespace Sys2Proof.Machine

/-- The Hardware Mode (R29). The rules test only `= legacy`; the other three behave alike (90_conflicts.md C1). -/
inductive Mode where
  | none
  | legacy
  | extendedA
  | extendedB
deriving DecidableEq, Repr

/-- The run state (R30). -/
inductive RunState where
  | stopped
  | running
deriving DecidableEq, Repr

/-- Whether the CORE is at an instruction boundary or inside a fetched LEGACY draw (R33). -/
inductive Phase where
  | fetch
  | drawWait
deriving DecidableEq, Repr

/-- Main memory (R26) in canonical form: addresses strictly rising, each below 4096, and no entry equal to what an
unlisted address reads as (`Config.resetByte`). -/
abbrev Memory := List Host.Cell

/-- The canonical form of memory. -/
abbrev Memory.wf (c : Config) (m : Memory) : Prop :=
  m.Pairwise (fun p q => p.1 < q.1) ∧ ∀ p ∈ m, p.1 < Config.memSize ∧ p.2 ≠ c.resetByte p.1

/-- The display buffer (R27): 32 rows of 64 pixels, `DISP[row][col]`. -/
abbrev Display := Vector (Vector Bool 64) 32

/-- Every pixel 0. -/
def Display.blank : Display := Vector.replicate 32 (Vector.replicate 64 false)

/-- A lifecycle operation of the HOST (R200). -/
inductive HostOp where
  | reset (mode : Mode)
  | loadRom (bytes : List Byte)
  | start
  | stop
deriving DecidableEq, Repr

/-- Which agent of R5 moves, and for the outside agents with what input. `host` lets the HOST attempt the first operation
of its queue. `setKey` carries the index as the platform layer gives it (R179). -/
inductive Turn where
  | core
  | timer
  | publishFrame
  | snapshotDisplay
  | setKey (index : Nat) (pressed : Bool)
  | host
deriving DecidableEq, Repr

/-- The state of one instance of the block. -/
structure State where
  /-- V0 to VF (R20); VF is the flag register too (R21). -/
  V : Vector Byte 16
  /-- The program counter (R22). -/
  PC : Word
  /-- The index register (R23). -/
  I : Word
  /-- The call stack (R24), the most recently pushed address first. -/
  STACK : List Word
  /-- The delay timer (R25). -/
  DT : Byte
  /-- The sound timer (R25). -/
  ST : Byte
  /-- Main memory (R26). -/
  MEM : Memory
  /-- The display buffer (R27). -/
  DISP : Display
  /-- The key levels (R28), `true` is pressed. -/
  KEYS : Vector Bool 16
  /-- The Hardware Mode (R29). -/
  MODE : Mode
  /-- The run state (R30). -/
  RUN : RunState
  /-- The frame-ready slot (R31). -/
  FRAME_READY : Bool
  /-- The latch of the LEGACY await-key instruction (R32). -/
  KEYWAIT : Option Key
  /-- Inside a held LEGACY draw or not (R33). -/
  PHASE : Phase
  /-- The held draw's opcode, meaningful only while `PHASE = drawWait` (R33). -/
  IR : Word
  /-- The unsupported opcodes reported, oldest first (R35). -/
  REPORT : List Word
  /-- The parameters of R4 this instance was built with; no step changes them (log entry 1). -/
  cfg : Config
  /-- A `reset(mode)` has been done (R200, R202). -/
  resetDone : Bool
  /-- MODEL'S OWN: how many free values have been drawn (R34; log entry 2). -/
  draws : Nat
  /-- MODEL'S OWN INPUT: the agents' coming moves, next first (R60: one total order). When it is empty the CORE moves
  (log entry 3). -/
  schedule : List Turn
  /-- MODEL'S OWN INPUT: the HOST's coming lifecycle operations, next first (R207; log entry 3). -/
  hostOps : List HostOp
deriving DecidableEq, Repr

/-- Why the machine is faulted. -/
inductive Fault where
  /-- A 2nnn found a finite stack full (R163). Raised by `execCall` only, and never with the default unbounded stack.
  Safe: the spec gives no further step a meaning. -/
  | stackOverflow
deriving DecidableEq, Repr

/-- Why a step has no meaning. -/
inductive Refusal where
  /-- Raised by a dispatch arm whose instruction has no meaning yet. No arm raises it. Safe. -/
  | notModelled (mnemonic : String)
  /-- Raised by the HOST's `reset(mode)` while RUN is not STOPPED: not enabled (R200, R201, R219). Safe. -/
  | resetWhileRunning
  /-- Raised by the HOST's `loadRom` while RUN is not STOPPED or before any reset: not enabled (R200, R202). Safe. -/
  | loadRomNotEnabled
  /-- Raised by the HOST's `start()` while RUN is not STOPPED or before any reset: not enabled (R200, R206). Safe. -/
  | startNotEnabled
  /-- Raised by the HOST's `stop()` while RUN is not RUNNING: not enabled (R200, R205). Safe. -/
  | stopWhileStopped
deriving DecidableEq, Repr

/-- The outcome of a step of this machine. -/
abbrev Result := Host.Outcome State Fault Refusal

/-- The machine right after `reset(NONE)` of an instance with the default parameters (R201): the spec's reset values, RUN
STOPPED as the reset leaves it (R30), no scheduled move. MODE is the reset's argument, here NONE (log entry 5); IR is
unspecified in the spec, here 0 (log entry 6). -/
def State.reset : State :=
  { V := Vector.replicate 16 0
    PC := BitVec.ofNat 16 Config.progBase
    I := 0
    STACK := []
    DT := 0
    ST := 0
    MEM := []
    DISP := Display.blank
    KEYS := Vector.replicate 16 false
    MODE := .none
    RUN := .stopped
    FRAME_READY := false
    KEYWAIT := none
    PHASE := .fetch
    IR := 0
    REPORT := []
    cfg := Config.default
    resetDone := true
    draws := 0
    schedule := []
    hostOps := [] }

end Sys2Proof.Machine
end

