-- ==== Sys2Proof/Machine/Ops.lean ====
section
/-! DEFINITION. Machine/Ops.lean: the named operations over registers, memory, stack, display, keys, program counter, the
report and the free values, each written once. There is no exception entry and no return from one (60_exceptions.md R166,
R167): the one reportable condition is `reportUnsupported`. -/

namespace Sys2Proof.Machine

/-! ### General registers (R20) -/

/-- VF, the flag register (R21). -/
def VF : Reg := 15

/-- `V[x]`. -/
def State.reg (s : State) (x : Reg) : Byte := s.V[x.val]

/-- `V[x] <- b`. -/
def State.setReg (s : State) (x : Reg) (b : Byte) : State := { s with V := s.V.set x.val b }

/-! ### Memory (R51): every address is reduced modulo 4096, and no access fails -/

/-- The cell of MEM a 16-bit address reaches: `ADDR_POLICY = mask12`. -/
def memIndex (a : Word) : Nat := a.toNat % Config.memSize

/-- The byte at a cell; an unlisted cell holds its reset byte. -/
def Memory.read (c : Config) : Memory → Nat → Byte
  | [], a => c.resetByte a
  | (b, v) :: m, a => if a = b then v else Memory.read c m a

/-- The memory with nothing listed at a cell. -/
def Memory.erase (m : Memory) (a : Nat) : Memory := m.filter (fun p => decide (p.1 ≠ a))

/-- The memory with one entry more, before the first higher address. -/
def Memory.insert : Memory → Nat → Byte → Memory
  | [], a, v => [(a, v)]
  | (b, w) :: m, a, v => if a < b then (a, v) :: (b, w) :: m else (b, w) :: Memory.insert m a v

/-- The memory with one byte written: an entry, unless the byte is what the unlisted cell reads as. -/
def Memory.write (c : Config) (m : Memory) (a : Nat) (v : Byte) : Memory :=
  if v = c.resetByte a then m.erase a else (m.erase a).insert a v

/-- `MemRead(addr, 1)`. -/
def State.memRead (s : State) (a : Word) : Byte := Memory.read s.cfg s.MEM (memIndex a)

/-- `MemWrite(addr, 1, v)`. -/
def State.memWrite (s : State) (a : Word) (v : Byte) : State :=
  { s with MEM := Memory.write s.cfg s.MEM (memIndex a) v }

/-- Write the bytes of a list at ascending addresses from `a`, in order, addresses modulo 65536 (R53, R55). -/
def State.memWriteList (s : State) (a : Word) : List Byte → State
  | [] => s
  | v :: vs => (s.memWrite a v).memWriteList (a + 1) vs

/-- The `n` bytes at ascending addresses from `a` (R53, R55). -/
def State.memReadList (s : State) (a : Word) : Nat → List Byte
  | 0 => []
  | n + 1 => s.memRead a :: s.memReadList (a + 1) n

/-! ### Program counter (R22, R90, R91): additions are modulo 65536 -/

/-- `PC <- target`. -/
def State.setPC (s : State) (target : Word) : State := { s with PC := target }

/-- The advance of a fetch: PC + 2. -/
def State.advancePC (s : State) : State := s.setPC (s.PC + 2)

/-- Skip the next instruction: PC + 2 once more (R91). -/
def State.skip (s : State) : State := s.setPC (s.PC + 2)

/-- Skip when the condition holds. -/
def State.skipIf (s : State) (c : Bool) : State := if c then s.skip else s

/-- Back to the instruction being executed: PC - 2 (R152). -/
def State.rewindPC (s : State) : State := s.setPC (s.PC - 2)

/-- The word at PC, the byte at PC the more significant (R52, R90). -/
def State.fetchWord (s : State) : Word := wordOfBytes (s.memRead s.PC) (s.memRead (s.PC + 1))

/-! ### Index register (R23) -/

/-- `I <- v`. -/
def State.setI (s : State) (v : Word) : State := { s with I := v }

/-! ### Stack (R24) -/

/-- A finite `STACK_DEPTH` is reached (R163); never with the default unbounded stack. -/
def State.stackFull (s : State) : Bool :=
  match s.cfg.stackDepth with
  | none => false
  | some d => decide (d ≤ s.STACK.length)

/-- `push(a)`. -/
def State.push (s : State) (a : Word) : State := { s with STACK := a :: s.STACK }

/-- The value `pop()` returns: the most recently pushed, or the sentinel 0 of an empty stack. -/
def State.popValue (s : State) : Word := s.STACK.headD 0

/-- The state `pop()` leaves: an empty stack stays empty. -/
def State.popped (s : State) : State := { s with STACK := s.STACK.tail }

/-! ### Timers (R25) -/

/-- `DT <- b`. -/
def State.setDT (s : State) (b : Byte) : State := { s with DT := b }

/-- `ST <- b`. -/
def State.setST (s : State) (b : Byte) : State := { s with ST := b }

/-! ### Display (R27) -/

/-- `DISP[row][col]`. -/
def Display.pixel (d : Display) (row : Fin 32) (col : Fin 64) : Bool := (d[row.val])[col.val]

/-- `DISP[row][col] <- DISP[row][col] ^ 1`. -/
def Display.toggle (d : Display) (row : Fin 32) (col : Fin 64) : Display :=
  d.set row.val ((d[row.val]).set col.val (!(d.pixel row col)))

/-- `DISP <- d`. -/
def State.setDisp (s : State) (d : Display) : State := { s with DISP := d }

/-! ### Keys (R28) -/

/-- `KEYS[k] = 1`. -/
def State.keyDown (s : State) (k : Key) : Bool := s.KEYS[k.val]

/-- The set `pressed` of R152, in rising order. -/
def State.pressedKeys (s : State) : List Key := (List.finRange 16).filter s.keyDown

/-- `KEYWAIT <- k` (R32). -/
def State.setKeyWait (s : State) (k : Option Key) : State := { s with KEYWAIT := k }

/-! ### Report (R35, R160) -/

/-- `report Unsupported(op)`: append the raw opcode; nothing else changes. -/
def State.reportUnsupported (s : State) (op : Word) : State := { s with REPORT := s.REPORT ++ [op] }

/-! ### Free values (R7 `draw`, R34) -/

/-- The next draw takes a fresh free value. -/
def State.drawn (s : State) : State := { s with draws := s.draws + 1 }

/-- `draw(RAND_SET)`: a byte of the set, otherwise free (R123). -/
def State.randomByte (s : State) : Byte :=
  match s.cfg.randSet with
  | .fullByte => Config.freeByte s.draws
  | .only first rest => (first :: rest).getD (Config.freeIndex s.draws % (rest.length + 1)) first

/-- `KEY_SELECT(pressed)`: a pressed key if there is one (R152): the lowest index, or any (`anyPressed`). -/
def State.selectKey (s : State) : Option Key :=
  match s.cfg.keySelect with
  | .lowestIndex => s.pressedKeys.head?
  | .anyPressed => s.pressedKeys[Config.freeIndex s.draws % s.pressedKeys.length]?

/-! ### Hardware Mode (R29) -/

/-- `MODE == LEGACY`. -/
def State.isLegacy (s : State) : Bool := decide (s.MODE = .legacy)

end Sys2Proof.Machine
end

