-- ==== Sys2Proof/Machine/Agents.lean ====
section
/-! DEFINITION. Machine/Agents.lean: the steps of the agents other than the CORE: the TIMER's tick, the REFRESHER's and INPUT's
moves (60_exceptions.md R172, R177 to R179) and the HOST's lifecycle operations (70_reset_and_hazards.md R200 to R206). -/

namespace Sys2Proof.Machine

/-- A timer's count after one tick: one less, never below 0 (R25, R172). -/
def countDown (b : Byte) : Byte := if 0 < b.toNat then b - 1 else b

/-- The TIMER's turn (R172, R173): one tick while RUN = RUNNING; while STOPPED no tick is enabled and nothing changes. -/
def State.timerTurn (s : State) : State :=
  match s.RUN with
  | .running => (s.setDT (countDown s.DT)).setST (countDown s.ST)
  | .stopped => s

/-- `publishFrame()` (R177). -/
def State.publishFrame (s : State) : State := { s with FRAME_READY := true }

/-- `snapshotDisplay()` (R178): the copy it returns. The move changes nothing. -/
def State.snapshotDisplay (s : State) : Display := s.DISP

/-- `setKey(index, pressed)` (R179); an index outside 0 to 15 is rejected at the boundary and changes nothing. -/
def State.setKey (s : State) (index : Nat) (pressed : Bool) : State :=
  if h : index < 16 then { s with KEYS := s.KEYS.set index pressed } else s

/-- The code of a mode on the 2-bit mode port (R4, R180). -/
def Mode.portCode : Mode → BitVec 2
  | .none => 0
  | .legacy => 1
  | .extendedA => 2
  | .extendedB => 3

/-- The mode of a 2-bit port code (R4, R180). -/
def Mode.ofPort (code : BitVec 2) : Mode :=
  if code = 0 then .none else if code = 1 then .legacy else if code = 2 then .extendedA else .extendedB

/-- The effect of `reset(mode)` (R201). RUN, the parameters, the free-value counter and the input queues are not its own. -/
def State.hostReset (s : State) (mode : Mode) : State :=
  { s with
    MEM := []
    V := Vector.replicate 16 0
    I := 0
    PC := BitVec.ofNat 16 Config.progBase
    STACK := []
    DT := 0
    ST := 0
    DISP := Display.blank
    KEYS := Vector.replicate 16 false
    MODE := mode
    FRAME_READY := false
    KEYWAIT := none
    PHASE := .fetch
    IR := 0
    REPORT := []
    resetDone := true }

/-- The length of the ROM region, memory[512:4096] (R4, R203). -/
def romLimit : Nat := Config.memSize - Config.progBase

/-- The effect of `loadRom(bytes)` (R203): the first 3584 bytes at 512 upward, the rest ignored. -/
def State.hostLoadRom (s : State) (bytes : List Byte) : State :=
  s.memWriteList (BitVec.ofNat 16 Config.progBase) (bytes.take romLimit)

/-- The effect of `start()` (R206). -/
def State.hostStart (s : State) : State := { s with RUN := .running }

/-- The effect of `stop()` (R205). -/
def State.hostStop (s : State) : State := { s with RUN := .stopped }

/-- `loadRom` and `start` are enabled: STOPPED, and a reset has been done (R200, R202). -/
def State.hostReady (s : State) : Bool := decide (s.RUN = .stopped) && s.resetDone

/-- One attempt of a lifecycle operation; `rest` are the operations after it (R200). An operation that is not enabled has
no step and is refused by name (R219). A `stop()` inside a held draw is not complete: it stays first in the queue and the
HOST waits (R205). -/
def State.hostAttempt (s : State) (rest : List HostOp) : HostOp → Result
  | .reset mode =>
    if s.RUN = .stopped then .next { s.hostReset mode with hostOps := rest } else .refused .resetWhileRunning
  | .loadRom bytes =>
    if s.hostReady then .next { s.hostLoadRom bytes with hostOps := rest } else .refused .loadRomNotEnabled
  | .start =>
    if s.hostReady then .next { s.hostStart with hostOps := rest } else .refused .startNotEnabled
  | .stop =>
    if s.RUN = .running then
      (if s.PHASE = .fetch then .next { s.hostStop with hostOps := rest } else .next s)
    else .refused .stopWhileStopped

/-- The HOST's turn: it attempts the first operation of its queue; with an empty queue it does nothing. -/
def State.hostTurn (s : State) : Result :=
  match s.hostOps with
  | [] => .next s
  | op :: rest => s.hostAttempt rest op

end Sys2Proof.Machine
end

