-- ==== Sys2Proof/Machine/Flags.lean ====
section
/-! DEFINITION. Machine/Flags.lean: every computation of VF as a flag (10_state.md R21, 41_alu.md R110). -/

namespace Sys2Proof.Machine

/-- A flag as the byte written to VF. -/
def flagByte (b : Bool) : Byte := if b then 1 else 0

/-- 8xy4: 1 if the exact sum exceeds 255 (R118). -/
def carryFlag (a b : Byte) : Byte := flagByte (decide (255 < a.toNat + b.toNat))

/-- 8xy5, 8xy7: 1 if no borrow occurs in a - b, that is a >= b (R119, R121). -/
def noBorrowFlag (a b : Byte) : Byte := flagByte (decide (b.toNat ≤ a.toNat))

/-- 8xy6: the bit shifted out on the right, bit 0 (R120). -/
def shiftOutRight (v : Byte) : Byte := v &&& 1

/-- 8xyE: the bit shifted out on the left, bit 7 (R122). -/
def shiftOutLeft (v : Byte) : Byte := (v >>> 7) &&& 1

/-- `V[0xF] <- f`. -/
def State.setFlag (s : State) (f : Byte) : State := s.setReg VF f

/-- 8xy1, 8xy2, 8xy3: VF is cleared in LEGACY mode only (R115 to R117). -/
def State.clearFlagIfLegacy (s : State) : State := if s.isLegacy then s.setFlag 0 else s

end Sys2Proof.Machine
end

