-- ==== Sys2Proof/Machine/Operands.lean ====
section
/-! DEFINITION. Machine/Operands.lean: every operand form of the instructions (30_encoding.md R73 and the operand lines of the
instruction rules): immediates zero-extended, registers zero-extended into 16-bit sums, the base I plus an offset, the
block V0 to Vx, the key index, the glyph address, the decimal digits, the sprite's start. -/

namespace Sys2Proof.Machine

/-- `zext_16(nnn)` (R73). -/
def addrOperand (nnn : Addr12) : Word := nnn.setWidth 16

/-- `zext_16(V[x])` (R99, R131). -/
def State.regWord (s : State) (x : Reg) : Word := (s.reg x).setWidth 16

/-- `(I + k) mod 65536` (R51). -/
def State.blockAddr (s : State) (k : Nat) : Word := s.I + BitVec.ofNat 16 k

/-- The registers V0 to Vx in ascending order (R134, R135): field x is a count. -/
def blockRegs (x : Reg) : List Reg := (List.finRange 16).take (x.val + 1)

/-- The key index an instruction tests: `V[x] & 0x0F`, `KEY_INDEX_POLICY = low_nibble` (R150). -/
def State.keyOperand (s : State) (x : Reg) : Key := ((s.reg x).extractLsb' 0 4).toFin

/-- A key index as the byte written to Vx (R152). -/
def keyByte (k : Key) : Byte := BitVec.ofNat 8 k.val

/-- `0x50 + 5 * zext_16(v)`, with no reduction of v to a nibble (R132). -/
def glyphAddr (v : Byte) : Word := BitVec.ofNat 16 (Config.fontBase + 5 * v.toNat)

/-- The decimal digits of a byte, hundreds first (R133). -/
def bcdDigits (v : Byte) : List Byte :=
  [BitVec.ofNat 8 (v.toNat / 100), BitVec.ofNat 8 (v.toNat / 10 % 10), BitVec.ofNat 8 (v.toNat % 10)]

/-- The start column of a sprite: `V[x] mod 64` (R141). -/
def State.startCol (s : State) (x : Reg) : Nat := (s.reg x).toNat % 64

/-- The start row of a sprite: `V[y] mod 32` (R141). -/
def State.startRow (s : State) (y : Reg) : Nat := (s.reg y).toNat % 32

/-- The value a shift shifts is put in Vx first: Vy in LEGACY mode, Vx itself otherwise (R120, R122). -/
def State.shiftSource (s : State) (x y : Reg) : State := if s.isLegacy then s.setReg x (s.reg y) else s

/-- The LEGACY post-increment of I by x + 1 (R134, R135). -/
def State.postIncrementI (s : State) (x : Reg) : State :=
  if s.isLegacy then s.setI (s.blockAddr (x.val + 1)) else s

end Sys2Proof.Machine
end

