-- ==== Sys2Proof/Machine/Alu.lean ====
section
/-! DEFINITION. Machine/Alu.lean: load, arithmetic, logic, shift and random (41_alu.md R112 to R123). The order of the register
writes follows R111: it decides the result when Vx is VF. -/

namespace Sys2Proof.Machine

/-- Vx <- v, then (LEGACY) VF <- 0: the shape of 8xy1, 8xy2, 8xy3 (R111). -/
def State.setLogic (s : State) (x : Reg) (v : Byte) : State := (s.setReg x v).clearFlagIfLegacy

/-- Vx <- v, then VF <- f: the shape of 8xy4, 8xy5, 8xy7 (R111). -/
def State.setWithFlag (s : State) (x : Reg) (v f : Byte) : State := (s.setReg x v).setFlag f

/-- VF <- the bit out of the current Vx, then Vx <- the shifted current Vx: the shape of 8xy6, 8xyE (R111). -/
def State.shiftReg (s : State) (x : Reg) (out shifted : Byte → Byte) : State :=
  let flagged := s.setFlag (out (s.reg x))
  flagged.setReg x (shifted (flagged.reg x))

/-- 6xnn (R112). -/
def execLdi (x : Reg) (nn : Byte) (s : State) : Result := .next (s.setReg x nn)

/-- 7xnn (R113): wraps, no flag. -/
def execAddi (x : Reg) (nn : Byte) (s : State) : Result := .next (s.setReg x (s.reg x + nn))

/-- 8xy0 (R114). -/
def execMov (x y : Reg) (s : State) : Result := .next (s.setReg x (s.reg y))

/-- 8xy1 (R115). -/
def execOr (x y : Reg) (s : State) : Result := .next (s.setLogic x (s.reg x ||| s.reg y))

/-- 8xy2 (R116). -/
def execAnd (x y : Reg) (s : State) : Result := .next (s.setLogic x (s.reg x &&& s.reg y))

/-- 8xy3 (R117). -/
def execXor (x y : Reg) (s : State) : Result := .next (s.setLogic x (s.reg x ^^^ s.reg y))

/-- 8xy4 (R118). -/
def execAdd (x y : Reg) (s : State) : Result :=
  .next (s.setWithFlag x (s.reg x + s.reg y) (carryFlag (s.reg x) (s.reg y)))

/-- 8xy5 (R119). -/
def execSub (x y : Reg) (s : State) : Result :=
  .next (s.setWithFlag x (s.reg x - s.reg y) (noBorrowFlag (s.reg x) (s.reg y)))

/-- 8xy6 (R120). -/
def execShr (x y : Reg) (s : State) : Result :=
  .next ((s.shiftSource x y).shiftReg x shiftOutRight (fun v => v >>> 1))

/-- 8xy7 (R121). -/
def execSubn (x y : Reg) (s : State) : Result :=
  .next (s.setWithFlag x (s.reg y - s.reg x) (noBorrowFlag (s.reg y) (s.reg x)))

/-- 8xyE (R122). -/
def execShl (x y : Reg) (s : State) : Result :=
  .next ((s.shiftSource x y).shiftReg x shiftOutLeft (fun v => v <<< 1))

/-- Cxnn (R123): nn AND a byte drawn freely from `RAND_SET`. -/
def execRnd (x : Reg) (nn : Byte) (s : State) : Result := .next ((s.setReg x (nn &&& s.randomByte)).drawn)

end Sys2Proof.Machine
end

