-- ==== Sys2Proof/Machine/Control.lean ====
section
/-! DEFINITION. Machine/Control.lean: return, jumps, call and skips (40_control.md R92 to R99). In every meaning `s.PC` already
holds the address of the following instruction (R90). -/

namespace Sys2Proof.Machine

/-- 00EE (R92): `PC <- pop()`; 0 when the stack is empty. -/
def execRet (s : State) : Result := .next (s.popped.setPC s.popValue)

/-- 1nnn (R93). -/
def execJp (nnn : Addr12) (s : State) : Result := .next (s.setPC (addrOperand nnn))

/-- 2nnn (R94): push the advanced PC and jump; StackOverflow when a finite stack is already full (R163). -/
def execCall (nnn : Addr12) (s : State) : Result :=
  if s.stackFull then .fault .stackOverflow else .next ((s.push s.PC).setPC (addrOperand nnn))

/-- 3xnn (R95). -/
def execSei (x : Reg) (nn : Byte) (s : State) : Result := .next (s.skipIf (decide (s.reg x = nn)))

/-- 4xnn (R96). -/
def execSnei (x : Reg) (nn : Byte) (s : State) : Result := .next (s.skipIf (decide (s.reg x ≠ nn)))

/-- 5xy0 (R97). -/
def execSer (x y : Reg) (s : State) : Result := .next (s.skipIf (decide (s.reg x = s.reg y)))

/-- 9xy0 (R98). -/
def execSner (x y : Reg) (s : State) : Result := .next (s.skipIf (decide (s.reg x ≠ s.reg y)))

/-- Bnnn (R99): the register added is always V0. -/
def execJpv0 (nnn : Addr12) (s : State) : Result := .next (s.setPC (addrOperand nnn + s.regWord 0))

end Sys2Proof.Machine
end

