-- ==== Sys2Proof/Machine/Display.lean ====
section
/-! DEFINITION. Machine/Display.lean: the display instructions (43_display.md R140, R141). -/

namespace Sys2Proof.Machine

/-- The buffer and the collision flag `hit` while a sprite is drawn (R141). -/
structure Canvas where
  disp : Display
  hit  : Bool
deriving DecidableEq, Repr

/-- XOR one set sprite bit into a pixel of the grid; `hit` becomes 1 if the pixel was 1. -/
def Canvas.plot (c : Canvas) (row : Fin 32) (col : Fin 64) : Canvas :=
  ⟨c.disp.toggle row col, c.hit || c.disp.pixel row col⟩

/-- The columns of one sprite row, from the bits still to draw (bit 7 first): `px > 63` stops the row (R141). -/
def Canvas.drawCols (c : Canvas) (row : Fin 32) (b : Byte) (px : Nat) : Nat → Canvas
  | 0 => c
  | k + 1 =>
    if h : px < 64 then
      (if b.getLsbD k then c.plot row ⟨px, h⟩ else c).drawCols row b (px + 1) k
    else c

/-- The rows of a sprite, from the bytes still to draw (top row first): `py > 31` stops all rows (R141). -/
def Canvas.drawRows (c : Canvas) (px py : Nat) : List Byte → Canvas
  | [] => c
  | b :: bs =>
    if h : py < 32 then (c.drawCols ⟨py, h⟩ b px 8).drawRows px (py + 1) bs else c

/-- The result of DRAW(x, y, n) on the display of `s` (R141): sprite row r is the byte at I + r. -/
def State.drawing (s : State) (x y n : Fin 16) : Canvas :=
  Canvas.drawRows ⟨s.DISP, false⟩ (s.startCol x) (s.startRow y) (s.memReadList s.I n.val)

/-- DRAW(x, y, n) (R141): the buffer, then `V[0xF] <- hit`. -/
def State.draw (s : State) (x y n : Fin 16) : State :=
  (s.setDisp (s.drawing x y n).disp).setFlag (flagByte (s.drawing x y n).hit)

/-- Hold a fetched LEGACY draw: `IR <- op; PHASE <- DRAW_WAIT` (R141). -/
def State.holdDraw (s : State) (op : Word) : State := { s with IR := op, PHASE := .drawWait }

/-- The second step of a LEGACY draw: consume frame-ready, draw from IR, back to the boundary (R141). -/
def State.completeDraw (s : State) : State :=
  { (State.draw { s with FRAME_READY := false } (fieldX s.IR) (fieldY s.IR) (fieldN s.IR)) with PHASE := .fetch }

/-- 00E0 (R140): every pixel 0, in every mode at once. -/
def execCls (s : State) : Result := .next (s.setDisp Display.blank)

/-- Dxyn (R141): draw at once, or in LEGACY mode hold the draw until the frame-ready signal. -/
def execDrw (x y n : Fin 16) (s : State) : Result :=
  if s.isLegacy then .next (s.holdDraw (encodeWord (.drw x y n))) else .next (s.draw x y n)

end Sys2Proof.Machine
end

