-- ==== Sys2Proof/Machine/Index.lean ====
section
/-! DEFINITION. Machine/Index.lean: the index register and the memory instructions (42_index_memory.md R130 to R135). -/

namespace Sys2Proof.Machine

/-- Annn (R130): `I <- nnn` under `ANNN_POLICY = load_index`, the unsupported-opcode event otherwise. -/
def execLdidx (nnn : Addr12) (s : State) : Result :=
  match s.cfg.annnPolicy with
  | .loadIndex => .next (s.setI (addrOperand nnn))
  | .unsupported => .next (s.reportUnsupported (encodeWord (.ldidx nnn)))

/-- Fx1E (R131): modulo 65536, no flag. -/
def execAddidx (x : Reg) (s : State) : Result := .next (s.setI (s.I + s.regWord x))

/-- Fx29 (R132). -/
def execLdfont (x : Reg) (s : State) : Result := .next (s.setI (glyphAddr (s.reg x)))

/-- Fx33 (R133): hundreds, tens, ones at I, I+1, I+2; I is not changed. -/
def execBcd (x : Reg) (s : State) : Result := .next (s.memWriteList s.I (bcdDigits (s.reg x)))

/-- Fx55 (R134): store V0 to Vx at I upward, then (LEGACY) I <- I + x + 1. -/
def execStm (x : Reg) (s : State) : Result :=
  .next ((s.memWriteList s.I ((blockRegs x).map s.reg)).postIncrementI x)

/-- Load the registers of a list from ascending addresses from `a` (R135). -/
def State.loadRegs (s : State) (a : Word) : List Reg → State
  | [] => s
  | r :: rs => (s.setReg r (s.memRead a)).loadRegs (a + 1) rs

/-- Fx65 (R135): load V0 to Vx from I upward, then (LEGACY) I <- I + x + 1. -/
def execLdm (x : Reg) (s : State) : Result := .next ((s.loadRegs s.I (blockRegs x)).postIncrementI x)

end Sys2Proof.Machine
end

