-- ==== Sys2Proof/Machine/KeysTimers.lean ====
section
/-! DEFINITION. Machine/KeysTimers.lean: the key and timer instructions (44_keys_timers.md R150 to R155). -/

namespace Sys2Proof.Machine

/-- Ex9E (R150). -/
def execSkp (x : Reg) (s : State) : Result := .next (s.skipIf (s.keyDown (s.keyOperand x)))

/-- ExA1 (R151). -/
def execSknp (x : Reg) (s : State) : Result := .next (s.skipIf (!s.keyDown (s.keyOperand x)))

/-- Fx0A outside LEGACY mode (R152): take a pressed key, or execute again. -/
def State.awaitPress (s : State) (x : Reg) : State :=
  match s.selectKey with
  | none => s.rewindPC
  | some k => (s.setReg x (keyByte k)).drawn

/-- Fx0A in LEGACY mode (R152): latch a pressed key, then wait for its release. -/
def State.awaitPressRelease (s : State) (x : Reg) : State :=
  match s.KEYWAIT with
  | none =>
    match s.selectKey with
    | none => s.rewindPC
    | some k => ((s.setKeyWait (some k)).drawn).rewindPC
  | some k => if s.keyDown k then s.rewindPC else (s.setReg x (keyByte k)).setKeyWait none

/-- Fx0A (R152). -/
def execLdk (x : Reg) (s : State) : Result :=
  .next (if s.isLegacy then s.awaitPressRelease x else s.awaitPress x)

/-- Fx07 (R153). -/
def execLddt (x : Reg) (s : State) : Result := .next (s.setReg x s.DT)

/-- Fx15 (R154). -/
def execStdt (x : Reg) (s : State) : Result := .next (s.setDT (s.reg x))

/-- Fx18 (R155). -/
def execStst (x : Reg) (s : State) : Result := .next (s.setST (s.reg x))

end Sys2Proof.Machine
end

