-- ==== Sys2Proof/Machine/Cycle.lean ====
section
/-! DEFINITION. Machine/Cycle.lean: the CORE's step (40_control.md R90, 43_display.md R141) and one turn of any agent
(00_scope.md R5), written where a repair may mend them; Machine/Step.lean only calls them. -/

namespace Sys2Proof.Machine

/-- One instruction cycle at PHASE = FETCH (R90): fetch the word at PC, advance PC, decode, then the instruction's meaning
or the unsupported-opcode event (R160). -/
def State.cycle (s : State) : Result :=
  match decodeWord s.fetchWord with
  | some i => exec i s.advancePC
  | none => .next (s.advancePC.reportUnsupported s.fetchWord)

/-- The CORE's turn. While STOPPED, and while a draw is held with FRAME_READY = 0, it has no enabled step and nothing
changes (R141, R183; log entry 3). -/
def State.coreTurn (s : State) : Result :=
  match s.RUN, s.PHASE with
  | .stopped, _ => .next s
  | .running, .fetch => s.cycle
  | .running, .drawWait => if s.FRAME_READY then .next s.completeDraw else .next s

/-- The turn of an agent (R5), one atomic step (R60). -/
def State.takeTurn (s : State) : Turn → Result
  | .core => s.coreTurn
  | .timer => .next s.timerTurn
  | .publishFrame => .next s.publishFrame
  | .snapshotDisplay => .next s
  | .setKey index pressed => .next (s.setKey index pressed)
  | .host => s.hostTurn

/-- The bytes of an instruction word placed where the next fetch reads (R52): at PC and PC + 1. -/
def State.placeWord (s : State) (op : Word) : State := s.memWriteList s.PC [highByte op, lowByte op]

/-- The CORE is made the next to move, running and at an instruction boundary. -/
def State.readyToFetch (s : State) : State :=
  { s with RUN := .running, PHASE := .fetch, schedule := .core :: s.schedule }

end Sys2Proof.Machine
end

