-- ==== Sys2Proof/Machine/Step.lean ====
section
/-! DEFINITION. Machine/Step.lean: one step of the block. The next move of the schedule is taken; when no move is
scheduled the CORE moves (20_memory.md R60; log entry 3). -/

namespace Sys2Proof.Machine

/-- One step: the turn of the agent the schedule names, or the CORE's. -/
def step (s : State) : Host.Outcome State Fault Refusal :=
  match s.schedule with
  | [] => s.coreTurn
  | turn :: rest => State.takeTurn { s with schedule := rest } turn

/-- The state with an instruction word stored where the very next step fetches: the word at PC (as `loadRom` would have
left it), the machine started and the CORE to move (log entry 7). -/
def State.withFetchWord (s : State) (nbits w : Nat) : State := (s.placeWord (tableWord nbits w)).readyToFetch

end Sys2Proof.Machine
end

