-- ==== Sys2Proof/Safety.lean ====
section
/-! DEFINITION. Safety.lean: the vocabulary of the claims: the invariant of the block, what a step leaves unchanged, whose turn
a step is, and the closed form of a sprite. -/

namespace Sys2Proof.Machine

/-- What holds of the block once a reset has been done, at every step boundary: memory is in canonical form (R26); a draw is
held only in LEGACY mode, while RUNNING, with a Dxyn word in IR (R33, R36, R205); the await-key latch is used only in
LEGACY mode (R32); a finite stack is not over its depth (R24). -/
structure State.Inv (s : State) : Prop where
  reset_done : s.resetDone = true
  memory_canonical : Memory.wf s.cfg s.MEM
  draw_held : s.PHASE = .drawWait → s.MODE = .legacy ∧ s.RUN = .running ∧ fieldFamily s.IR = 0xD
  key_latched : s.KEYWAIT ≠ none → s.MODE = .legacy
  stack_bounded : ∀ d, s.cfg.stackDepth = some d → s.STACK.length ≤ d

/-- The components of the state. -/
inductive Part where
  | V | PC | I | STACK | DT | ST | MEM | DISP | KEYS | MODE | RUN | FRAME_READY | KEYWAIT | PHASE | IR | REPORT
  | cfg | resetDone | draws | schedule | hostOps
deriving DecidableEq, Repr

/-- A component reads the same in two states: registers one by one, memory byte by byte through `memRead`, the display
pixel by pixel, the keys one by one. -/
def Part.same (s t : State) : Part → Prop
  | .V => ∀ r, t.reg r = s.reg r
  | .PC => t.PC = s.PC
  | .I => t.I = s.I
  | .STACK => t.STACK = s.STACK
  | .DT => t.DT = s.DT
  | .ST => t.ST = s.ST
  | .MEM => ∀ a, t.memRead a = s.memRead a
  | .DISP => ∀ row col, t.DISP.pixel row col = s.DISP.pixel row col
  | .KEYS => ∀ k, t.keyDown k = s.keyDown k
  | .MODE => t.MODE = s.MODE
  | .RUN => t.RUN = s.RUN
  | .FRAME_READY => t.FRAME_READY = s.FRAME_READY
  | .KEYWAIT => t.KEYWAIT = s.KEYWAIT
  | .PHASE => t.PHASE = s.PHASE
  | .IR => t.IR = s.IR
  | .REPORT => t.REPORT = s.REPORT
  | .cfg => t.cfg = s.cfg
  | .resetDone => t.resetDone = s.resetDone
  | .draws => t.draws = s.draws
  | .schedule => t.schedule = s.schedule
  | .hostOps => t.hostOps = s.hostOps

/-- Every component but those listed reads the same in `t` as in `s`. -/
def UnchangedExcept (changed : List Part) (s t : State) : Prop := ∀ p, p ∉ changed → p.same s t

/-- Every general register but those listed holds the same value in `t` as in `s`. -/
def RegsExcept (written : List Reg) (s t : State) : Prop := ∀ r, r ∉ written → t.reg r = s.reg r

/-- Every byte of memory outside the `n` bytes stored from address `a` upward (each address reduced modulo 4096) reads the
same in `t` as in `s`. -/
def BytesOutside (a : Word) (n : Nat) (s t : State) : Prop :=
  ∀ b, (∀ k, k < n → memIndex b ≠ memIndex (a + BitVec.ofNat 16 k)) → t.memRead b = s.memRead b

/-- Whose turn the next step is. -/
def State.nextTurn (s : State) : Turn := s.schedule.headD .core

/-- The state in which the next turn is taken: the move is off the schedule. -/
def State.afterPick (s : State) : State := { s with schedule := s.schedule.tail }

/-- Sprite bit of a pixel (R141): row r of the sprite is the byte at I + r, bit 7 is its leftmost pixel; the start is
reduced modulo 64 and 32, the body is not. -/
def State.spriteBit (s : State) (x y n : Fin 16) (row : Fin 32) (col : Fin 64) : Bool :=
  decide (s.startRow y ≤ row.val ∧ row.val < s.startRow y + n.val ∧ s.startCol x ≤ col.val ∧ col.val < s.startCol x + 8) &&
    (s.memRead (s.blockAddr (row.val - s.startRow y))).getLsbD (7 - (col.val - s.startCol x))

/-- A pixel that was lit lies under a set sprite bit. -/
def State.spriteHits (s : State) (x y n : Fin 16) : Prop :=
  ∃ row col, s.spriteBit x y n row col = true ∧ s.DISP.pixel row col = true

/-- `t` is `s` with DRAW(x, y, n) done (R141): each pixel XORed with its sprite bit, VF the collision, nothing else of the
registers or the display changed. -/
def Drawn (x y n : Fin 16) (s t : State) : Prop :=
  (∀ row col, t.DISP.pixel row col = (s.DISP.pixel row col ^^ s.spriteBit x y n row col)) ∧
  (s.spriteHits x y n → t.reg VF = 1) ∧ (¬ s.spriteHits x y n → t.reg VF = 0) ∧ RegsExcept [VF] s t

/-- 8xy1, 8xy2, 8xy3 with result `v` (R111, R115 to R117): Vx gets the result, then in LEGACY mode VF gets 0. -/
def LogicDone (x : Reg) (v : Byte) (s t : State) : Prop :=
  (s.MODE = .legacy → t.reg VF = 0) ∧ (s.MODE ≠ .legacy → x ≠ VF → t.reg VF = s.reg VF) ∧
  (x ≠ VF ∨ s.MODE ≠ .legacy → t.reg x = v) ∧ RegsExcept [x, VF] s t ∧ UnchangedExcept [.V] s t

/-- 8xy4, 8xy5, 8xy7 with result `v` modulo 256 and flag `f` (R111, R118, R119, R121): the result first, then the flag. -/
def ArithmeticDone (x : Reg) (v : Int) (f : Prop) (s t : State) : Prop :=
  (x ≠ VF → ((t.reg x).toNat : Int) = v % 256) ∧ (f → t.reg VF = 1) ∧ (¬ f → t.reg VF = 0) ∧
  RegsExcept [x, VF] s t ∧ UnchangedExcept [.V] s t

/-- A skip (R91): PC + 2 when the condition holds, PC otherwise, nothing else. -/
def SkipDone (c : Prop) (s t : State) : Prop :=
  (c → t.PC = s.PC + 2) ∧ (¬ c → t.PC = s.PC) ∧ UnchangedExcept [.PC] s t

/-- The key Fx0A takes (R152): one that is pressed; with the default `KEY_SELECT` the lowest. -/
def TakesKey (s : State) (k : Key) : Prop :=
  s.keyDown k = true ∧ (s.cfg.keySelect = .lowestIndex → ∀ j, s.keyDown j = true → k ≤ j)

end Sys2Proof.Machine
end

