-- ==== Sys2Proof/Certificates/Slice0/Obligations.lean ====
section
/-! DEFINITION. Certificates/Slice0/Obligations.lean: the statements for the provers. A meaning is given the state after the
fetch, in which PC already holds the address of the following instruction (R90). `UnchangedExcept` and `RegsExcept` are the
frames: what is not named there reads as before. -/

open Sys2Proof Sys2Proof.Machine

/-! ### Encoding -/

/-- 30_encoding.md sections 1 to 3: decoding the bytes of any instruction, whatever follows them, gives it back with what
follows. -/
def Obligations.DecodeOfEncodeIsTheInstruction : Prop :=
  ∀ (i : Instr) (rest : List Byte), decode (encode i ++ rest) = .ok (i, rest)

/-- The other direction: a word that decodes is the word of the instruction it decodes to, so no bit of a supported word is
ignored. That the match is literal (the low nibble of families 5 and 9 too) is the spec's decision D19 (log entry 19). -/
def Obligations.EncodeOfDecodeIsTheWord : Prop :=
  ∀ (op : Word) (i : Instr), decodeWord op = some i → encodeWord i = op

/-- 30_encoding.md section 3: a word decodes exactly when it satisfies a row of the opcode map, then to an instruction of
that row, and no word satisfies two rows. That the match is literal is the spec's decision D19. -/
def Obligations.DecodingIsTheTableLookup : Prop :=
  (∀ op : Word, (decodeWord op).isSome = true ↔ ∃ r ∈ opcodeRows, r.selects op = true) ∧
  (∀ (op : Word) (i : Instr), decodeWord op = some i → i.row ∈ opcodeRows ∧ i.row.selects op = true) ∧
  (∀ (op : Word) (r q : OpcodeRow), r ∈ opcodeRows → q ∈ opcodeRows → r.selects op = true → q.selects op = true → r = q)

/-- 30_encoding.md section 4, under the default `ANNN_POLICY`: the words that match no row, family by family. That the match
is literal is the spec's decision D19. -/
def Obligations.UnsupportedWordsByFamily : Prop :=
  ∀ op : Word, decodeWord op = none ↔
    (fieldFamily op = 0x0 ∧ op ≠ 0x00E0 ∧ op ≠ 0x00EE) ∨
    (fieldFamily op = 0x5 ∧ fieldN op ≠ 0) ∨
    (fieldFamily op = 0x8 ∧ fieldN op ∈ ([0x8, 0x9, 0xA, 0xB, 0xC, 0xD, 0xF] : List (Fin 16))) ∨
    (fieldFamily op = 0x9 ∧ fieldN op ≠ 0) ∨
    (fieldFamily op = 0xE ∧ fieldNN op ∉ ([0x9E, 0xA1] : List Byte)) ∨
    (fieldFamily op = 0xF ∧
      fieldNN op ∉ ([0x07, 0x0A, 0x15, 0x18, 0x1E, 0x29, 0x33, 0x55, 0x65] : List Byte))

/-- Thirteen words written out from R75 (95_test_vectors.md), of each format and of families 0, 1, 2, 3, 5, 6, 8, B, D, E and F,
decode to their instructions, and a fourteenth, 5121, does not decode: that is the spec's decision D19 (log entry 19). -/
def Obligations.SampleWordsDecode : Prop :=
  decodeWord 0x00E0 = some .cls ∧ decodeWord 0x00EE = some .ret ∧ decodeWord 0x1FFF = some (.jp 0xFFF) ∧
  decodeWord 0x2ABC = some (.call 0xABC) ∧ decodeWord 0x3F01 = some (.sei 15 0x01) ∧
  decodeWord 0x5120 = some (.ser 1 2) ∧ decodeWord 0x6A05 = some (.ldi 10 0x05) ∧
  decodeWord 0x8236 = some (.shr 2 3) ∧ decodeWord 0x801E = some (.shl 0 1) ∧
  decodeWord 0xB300 = some (.jpv0 0x300) ∧ decodeWord 0xD123 = some (.drw 1 2 3) ∧
  decodeWord 0xE2A1 = some (.sknp 2) ∧ decodeWord 0xF365 = some (.ldm 3) ∧ decodeWord 0x5121 = none

/-! ### The cycle, fetch and memory -/

/-- R90: a turn of the running CORE at an instruction boundary fetches the word at PC, advances PC by 2 modulo 65536 and,
when the word decodes, executes the instruction on that state. The step of the block does this whenever it is the CORE's
turn (log entry 3). -/
def Obligations.StepRunsTheDecodedInstruction : Prop :=
  ∀ (s : State) (i : Instr), s.RUN = .running → s.PHASE = .fetch → s.nextTurn = .core →
    decodeWord s.fetchWord = some i →
    step s = exec i { s with PC := s.PC + 2, schedule := s.schedule.tail }

/-- R52, R51: the fetched word has the byte at PC in bits 15:8 and the byte at PC + 1 in bits 7:0, both addresses reduced
modulo 4096, for every PC, odd ones and those above 4095 included. The reduction is the spec's decision D3. -/
def Obligations.FetchIsBigEndianAndMasked : Prop :=
  ∀ s : State, s.fetchWord.toNat =
    (Memory.read s.cfg s.MEM (s.PC.toNat % 4096)).toNat * 256 +
      (Memory.read s.cfg s.MEM ((s.PC.toNat + 1) % 4096)).toNat

/-- R51, R56: a write is read back at every address of the same residue modulo 4096 and leaves every other byte alone. The
reduction modulo 4096 is the spec's decision D3. -/
def Obligations.ReadAfterWrite : Prop :=
  ∀ (s : State) (a b : Word) (v : Byte),
    (a.toNat % 4096 = b.toNat % 4096 → (s.memWrite a v).memRead b = v) ∧
    (a.toNat % 4096 ≠ b.toNat % 4096 → (s.memWrite a v).memRead b = s.memRead b) ∧
    UnchangedExcept [.MEM] s (s.memWrite a v)

/-- The model's own form of memory: two canonical memories that read alike at all 4096 addresses are the same list. -/
def Obligations.CanonicalMemoriesThatReadAlikeAreEqual : Prop :=
  ∀ (c : Config) (m n : Memory), Memory.wf c m → Memory.wf c n →
    (∀ a, a < 4096 → Memory.read c m a = Memory.read c n a) → m = n

/-- R160: a word of no row is reported, PC has advanced by 2, and nothing else changes. -/
def Obligations.UnsupportedWordIsReportedAndSkipped : Prop :=
  ∀ s : State, s.RUN = .running → s.PHASE = .fetch → s.nextTurn = .core → decodeWord s.fetchWord = none →
    ∃ t, step s = .next t ∧ t.REPORT = s.REPORT ++ [s.fetchWord] ∧ t.PC = s.PC + 2 ∧
      UnchangedExcept [.REPORT, .PC] s.afterPick t

/-! ### Control transfer -/

/-- R93, R99: 1nnn and Bnnn. -/
def Obligations.JumpsSetPC : Prop :=
  ∀ (s : State) (nnn : Addr12),
    (decodeWord (wordA 0x1 nnn) = some (.jp nnn) ∧
      ∃ t, exec (.jp nnn) s = .next t ∧ t.PC.toNat = nnn.toNat ∧ UnchangedExcept [.PC] s t) ∧
    (decodeWord (wordA 0xB nnn) = some (.jpv0 nnn) ∧
      ∃ t, exec (.jpv0 nnn) s = .next t ∧ t.PC.toNat = (nnn.toNat + (s.reg 0).toNat) % 65536 ∧
        UnchangedExcept [.PC] s t)

/-- 40_control.md section 2: 2nnn pushes the advanced PC and jumps, whenever the stack is unbounded or not yet full (the
full finite stack is the spec's decision D4, in the next statement). -/
def Obligations.CallPushesReturnAddress : Prop :=
  ∀ (s : State) (nnn : Addr12), (∀ d, s.cfg.stackDepth = some d → s.STACK.length < d) →
    decodeWord (wordA 0x2 nnn) = some (.call nnn) ∧
    ∃ t, exec (.call nnn) s = .next t ∧ t.STACK = s.PC :: s.STACK ∧ t.PC.toNat = nnn.toNat ∧
      UnchangedExcept [.STACK, .PC] s t

/-- R163: in a realisation with a finite depth a 2nnn on a full stack is the StackOverflow condition (the spec's
decision D4). -/
def Obligations.CallOnFullStackFaults : Prop :=
  ∀ (s : State) (nnn : Addr12) (d : Nat), s.cfg.stackDepth = some d → d ≤ s.STACK.length →
    exec (.call nnn) s = .fault .stackOverflow

/-- R92: 00EE pops into PC; an empty stack gives 0 and stays empty. -/
def Obligations.ReturnPopsIntoPC : Prop :=
  decodeWord 0x00EE = some .ret ∧
  ∀ s : State, ∃ t, exec .ret s = .next t ∧
    (∀ a rest, s.STACK = a :: rest → t.PC = a ∧ t.STACK = rest) ∧
    (s.STACK = [] → t.PC = 0 ∧ t.STACK = []) ∧ UnchangedExcept [.STACK, .PC] s t

/-- Derived from 40_control.md section 2: whatever a subroutine does, if it leaves the stack as the call left it, its return
comes back to the instruction after the call with the caller's stack. -/
def Obligations.ReturnUndoesCall : Prop :=
  ∀ (s t u : State) (nnn : Addr12), exec (.call nnn) s = .next t → u.STACK = t.STACK →
    ∃ w, exec .ret u = .next w ∧ w.PC = s.PC ∧ w.STACK = s.STACK

/-- R91, R95 to R98: the register skips. -/
def Obligations.RegisterSkips : Prop :=
  ∀ (s : State) (x y : Reg) (nn : Byte),
    (decodeWord (wordI 0x3 x nn) = some (.sei x nn) ∧
      ∃ t, exec (.sei x nn) s = .next t ∧ SkipDone (s.reg x = nn) s t) ∧
    (decodeWord (wordI 0x4 x nn) = some (.snei x nn) ∧
      ∃ t, exec (.snei x nn) s = .next t ∧ SkipDone (s.reg x ≠ nn) s t) ∧
    (decodeWord (wordR 0x5 x y 0) = some (.ser x y) ∧
      ∃ t, exec (.ser x y) s = .next t ∧ SkipDone (s.reg x = s.reg y) s t) ∧
    (decodeWord (wordR 0x9 x y 0) = some (.sner x y) ∧
      ∃ t, exec (.sner x y) s = .next t ∧ SkipDone (s.reg x ≠ s.reg y) s t)

/-! ### Load, arithmetic, logic, shift, random -/

/-- R112, R114: 6xnn and 8xy0 write Vx and nothing else, no flag. -/
def Obligations.LoadImmediateAndCopy : Prop :=
  ∀ (s : State) (x y : Reg) (nn : Byte),
    (decodeWord (wordI 0x6 x nn) = some (.ldi x nn) ∧
      ∃ t, exec (.ldi x nn) s = .next t ∧ t.reg x = nn ∧ RegsExcept [x] s t ∧ UnchangedExcept [.V] s t) ∧
    (decodeWord (wordR 0x8 x y 0x0) = some (.mov x y) ∧
      ∃ t, exec (.mov x y) s = .next t ∧ t.reg x = s.reg y ∧ RegsExcept [x] s t ∧ UnchangedExcept [.V] s t)

/-- R113: 7xnn wraps modulo 256 and writes no flag. -/
def Obligations.AddImmediateWrapsWithoutFlag : Prop :=
  ∀ (s : State) (x : Reg) (nn : Byte),
    decodeWord (wordI 0x7 x nn) = some (.addi x nn) ∧
    ∃ t, exec (.addi x nn) s = .next t ∧ (t.reg x).toNat = ((s.reg x).toNat + nn.toNat) % 256 ∧
      RegsExcept [x] s t ∧ UnchangedExcept [.V] s t

/-- R115, R116, R117: the logic operations, with VF cleared in LEGACY mode only; every x and y. What holds for
x = F is the spec's decision D9. -/
def Obligations.LogicOperations : Prop :=
  ∀ (s : State) (x y : Reg),
    (decodeWord (wordR 0x8 x y 0x1) = some (.or x y) ∧
      ∃ t, exec (.or x y) s = .next t ∧ LogicDone x (s.reg x ||| s.reg y) s t) ∧
    (decodeWord (wordR 0x8 x y 0x2) = some (.and x y) ∧
      ∃ t, exec (.and x y) s = .next t ∧ LogicDone x (s.reg x &&& s.reg y) s t) ∧
    (decodeWord (wordR 0x8 x y 0x3) = some (.xor x y) ∧
      ∃ t, exec (.xor x y) s = .next t ∧ LogicDone x (s.reg x ^^^ s.reg y) s t)

/-- R118: 8xy4; with x = F only the carry is left (the spec's decision D9). -/
def Obligations.AddWithCarryOut : Prop :=
  ∀ (s : State) (x y : Reg),
    decodeWord (wordR 0x8 x y 0x4) = some (.add x y) ∧
    ∃ t, exec (.add x y) s = .next t ∧
      ArithmeticDone x ((s.reg x).toNat + (s.reg y).toNat) (255 < (s.reg x).toNat + (s.reg y).toNat) s t

/-- R119, R121: 8xy5 and 8xy7; VF = 1 means that no borrow occurred. What holds for x = F is the spec's decision
D9. -/
def Obligations.SubtractWithNoBorrowFlag : Prop :=
  ∀ (s : State) (x y : Reg),
    (decodeWord (wordR 0x8 x y 0x5) = some (.sub x y) ∧
      ∃ t, exec (.sub x y) s = .next t ∧
        ArithmeticDone x ((s.reg x).toNat - (s.reg y).toNat) ((s.reg y).toNat ≤ (s.reg x).toNat) s t) ∧
    (decodeWord (wordR 0x8 x y 0x7) = some (.subn x y) ∧
      ∃ t, exec (.subn x y) s = .next t ∧
        ArithmeticDone x ((s.reg y).toNat - (s.reg x).toNat) ((s.reg x).toNat ≤ (s.reg y).toNat) s t)

/-- R120: 8xy6 shifts v, which is Vy in LEGACY mode and Vx otherwise; with x = F the flag is itself shifted
and VF ends 0 (the spec's decision D9). -/
def Obligations.ShiftRight : Prop :=
  ∀ (s : State) (x y : Reg) (v : Byte), (s.MODE = .legacy → v = s.reg y) → (s.MODE ≠ .legacy → v = s.reg x) →
    decodeWord (wordR 0x8 x y 0x6) = some (.shr x y) ∧
    ∃ t, exec (.shr x y) s = .next t ∧
      (x ≠ VF → (t.reg x).toNat = v.toNat / 2 ∧ (t.reg VF).toNat = v.toNat % 2) ∧
      (x = VF → t.reg VF = 0) ∧ RegsExcept [x, VF] s t ∧ UnchangedExcept [.V] s t

/-- R122: 8xyE; with x = F the flag is itself shifted and VF ends 0 or 2 (the spec's decision D9). -/
def Obligations.ShiftLeft : Prop :=
  ∀ (s : State) (x y : Reg) (v : Byte), (s.MODE = .legacy → v = s.reg y) → (s.MODE ≠ .legacy → v = s.reg x) →
    decodeWord (wordR 0x8 x y 0xE) = some (.shl x y) ∧
    ∃ t, exec (.shl x y) s = .next t ∧
      (x ≠ VF → (t.reg x).toNat = v.toNat * 2 % 256 ∧ (t.reg VF).toNat = v.toNat / 128) ∧
      (x = VF → (t.reg VF).toNat = 2 * (v.toNat / 128)) ∧ RegsExcept [x, VF] s t ∧ UnchangedExcept [.V] s t

/-- R123: Cxnn stores nn AND some byte of `RAND_SET`; the model's draw counter moves on (log entry 2). -/
def Obligations.RandomByteIsMasked : Prop :=
  ∀ (s : State) (x : Reg) (nn : Byte),
    decodeWord (wordI 0xC x nn) = some (.rnd x nn) ∧
    ∃ t r, exec (.rnd x nn) s = .next t ∧ s.cfg.randSet.has r = true ∧ t.reg x = nn &&& r ∧
      RegsExcept [x] s t ∧ UnchangedExcept [.V, .draws] s t

/-! ### Index register and memory -/

/-- Annn under both values of `ANNN_POLICY`: the spec's decision D1 (42_index_memory.md). -/
def Obligations.LoadIndexByPolicy : Prop :=
  ∀ (s : State) (nnn : Addr12),
    decodeWord (wordA 0xA nnn) = some (.ldidx nnn) ∧
    ∃ t, exec (.ldidx nnn) s = .next t ∧
      (s.cfg.annnPolicy = .loadIndex → t.I.toNat = nnn.toNat ∧ UnchangedExcept [.I] s t) ∧
      (s.cfg.annnPolicy = .unsupported →
        t.REPORT = s.REPORT ++ [wordA 0xA nnn] ∧ UnchangedExcept [.REPORT] s t)

/-- R131, R132: Fx1E modulo 65536 without a flag, Fx29 without a mask. The wrap of I is the spec's decision D25,
the whole byte in Fx29 its decision D20. -/
def Obligations.IndexArithmetic : Prop :=
  ∀ (s : State) (x : Reg),
    (decodeWord (wordI 0xF x 0x1E) = some (.addidx x) ∧
      ∃ t, exec (.addidx x) s = .next t ∧ t.I.toNat = (s.I.toNat + (s.reg x).toNat) % 65536 ∧
        UnchangedExcept [.I] s t) ∧
    (decodeWord (wordI 0xF x 0x29) = some (.ldfont x) ∧
      ∃ t, exec (.ldfont x) s = .next t ∧ t.I.toNat = 0x50 + 5 * (s.reg x).toNat ∧ UnchangedExcept [.I] s t)

/-- R133: Fx33 stores the hundreds, tens and ones digits at I, I + 1, I + 2 and no other byte. -/
def Obligations.StoreDecimalDigits : Prop :=
  ∀ (s : State) (x : Reg),
    decodeWord (wordI 0xF x 0x33) = some (.bcd x) ∧
    ∃ t, exec (.bcd x) s = .next t ∧
      (t.memRead s.I).toNat = (s.reg x).toNat / 100 ∧
      (t.memRead (s.I + 1)).toNat = (s.reg x).toNat / 10 % 10 ∧
      (t.memRead (s.I + 2)).toNat = (s.reg x).toNat % 10 ∧
      BytesOutside s.I 3 s t ∧ UnchangedExcept [.MEM] s t

/-- R134: Fx55 stores V0 to Vx at I upward and no other byte; I moves by x + 1 in LEGACY mode only. -/
def Obligations.StoreRegisterBlock : Prop :=
  ∀ (s : State) (x : Reg),
    decodeWord (wordI 0xF x 0x55) = some (.stm x) ∧
    ∃ t, exec (.stm x) s = .next t ∧
      (∀ i : Reg, i ≤ x → t.memRead (s.I + BitVec.ofNat 16 i.val) = s.reg i) ∧
      BytesOutside s.I (x.val + 1) s t ∧
      (s.MODE = .legacy → t.I.toNat = (s.I.toNat + x.val + 1) % 65536) ∧ (s.MODE ≠ .legacy → t.I = s.I) ∧
      UnchangedExcept [.MEM, .I] s t

/-- R135: Fx65 loads V0 to Vx from I upward and no other register; I moves by x + 1 in LEGACY mode only. -/
def Obligations.LoadRegisterBlock : Prop :=
  ∀ (s : State) (x : Reg),
    decodeWord (wordI 0xF x 0x65) = some (.ldm x) ∧
    ∃ t, exec (.ldm x) s = .next t ∧
      (∀ i : Reg, i ≤ x → t.reg i = s.memRead (s.I + BitVec.ofNat 16 i.val)) ∧
      (∀ i : Reg, x < i → t.reg i = s.reg i) ∧
      (s.MODE = .legacy → t.I.toNat = (s.I.toNat + x.val + 1) % 65536) ∧ (s.MODE ≠ .legacy → t.I = s.I) ∧
      UnchangedExcept [.V, .I] s t

/-- R135, the document's round trip: Fx65 after Fx55 with the same x and the same I restores V0 to Vx, whatever happened to
the registers between them. -/
def Obligations.StoreThenLoadRestoresRegisters : Prop :=
  ∀ (s t u : State) (x : Reg), exec (.stm x) s = .next t → u.I = s.I → (∀ a, u.memRead a = t.memRead a) →
    ∃ w, exec (.ldm x) u = .next w ∧ ∀ i : Reg, i ≤ x → w.reg i = s.reg i

/-! ### Display -/

/-- R140: 00E0 clears every pixel, in every mode, at once. -/
def Obligations.ClearScreen : Prop :=
  decodeWord 0x00E0 = some .cls ∧
  ∀ s : State, ∃ t, exec .cls s = .next t ∧ (∀ row col, t.DISP.pixel row col = false) ∧ UnchangedExcept [.DISP] s t

/-- R141 outside LEGACY mode: Dxyn draws at once, XOR with clipping, VF the collision. With x or y = F
the old VF is the coordinate (the spec's decision D9). -/
def Obligations.DrawSpriteOutsideLegacy : Prop :=
  ∀ (s : State) (x y n : Fin 16), s.MODE ≠ .legacy →
    decodeWord (wordR 0xD x y n) = some (.drw x y n) ∧
    ∃ t, exec (.drw x y n) s = .next t ∧ Drawn x y n s t ∧ UnchangedExcept [.V, .DISP] s t

/-- R141 in LEGACY mode, first step: the fetched draw is held, nothing is drawn (the two steps are the
spec's decision D22). -/
def Obligations.LegacyDrawIsHeld : Prop :=
  ∀ (s : State) (x y n : Fin 16), s.MODE = .legacy →
    ∃ t, exec (.drw x y n) s = .next t ∧ t.IR = wordR 0xD x y n ∧ t.PHASE = .drawWait ∧
      UnchangedExcept [.IR, .PHASE] s t

/-- R141 in LEGACY mode, second step: with frame-ready set the CORE consumes it, draws from IR and is back at the
boundary; without it the CORE's turn changes nothing (decision D22; log entry 3). -/
def Obligations.HeldDrawCompletesOnFrameReady : Prop :=
  ∀ (s : State), s.RUN = .running → s.PHASE = .drawWait →
    (s.FRAME_READY = true → ∃ t, s.coreTurn = .next t ∧ t.FRAME_READY = false ∧ t.PHASE = .fetch ∧
      Drawn (fieldX s.IR) (fieldY s.IR) (fieldN s.IR) s t ∧
      UnchangedExcept [.V, .DISP, .FRAME_READY, .PHASE] s t) ∧
    (s.FRAME_READY = false → s.coreTurn = .next s)

/-- R141 (h): drawing the same sprite twice at the same place restores the display, provided no coordinate is VF. -/
def Obligations.DrawingTwiceRestoresDisplay : Prop :=
  ∀ (s t : State) (x y n : Fin 16), s.MODE ≠ .legacy → x ≠ VF → y ≠ VF → exec (.drw x y n) s = .next t →
    ∃ u, exec (.drw x y n) t = .next u ∧ (∀ row col, u.DISP.pixel row col = s.DISP.pixel row col) ∧
      (u.reg VF = 1 ↔ ∃ row col, s.spriteBit x y n row col = true ∧ s.DISP.pixel row col = false)

/-- R183, R205: a held draw is left only through a publish: while FRAME_READY = 0 no turn of any agent ends the wait,
draws, moves PC or stops the machine, and a `stop()` stays queued. -/
def Obligations.HeldDrawWaitsForPublish : Prop :=
  ∀ (s t : State) (turn : Turn), s.RUN = .running → s.PHASE = .drawWait → s.FRAME_READY = false →
    s.takeTurn turn = .next t →
    t.PHASE = .drawWait ∧ t.RUN = .running ∧ t.IR = s.IR ∧ t.PC = s.PC ∧ t.DISP = s.DISP ∧ t.V = s.V ∧
      t.hostOps = s.hostOps ∧ (t.FRAME_READY = true ↔ turn = .publishFrame)

/-! ### Keys and timers -/

/-- R150, R151: the key skips, by the low nibble of Vx (the spec's decision D7). -/
def Obligations.KeySkips : Prop :=
  ∀ (s : State) (x : Reg) (k : Key), k.val = (s.reg x).toNat % 16 →
    (decodeWord (wordI 0xE x 0x9E) = some (.skp x) ∧
      ∃ t, exec (.skp x) s = .next t ∧ SkipDone (s.keyDown k = true) s t) ∧
    (decodeWord (wordI 0xE x 0xA1) = some (.sknp x) ∧
      ∃ t, exec (.sknp x) s = .next t ∧ SkipDone (s.keyDown k = false) s t)

/-- R152 outside LEGACY mode: with no key pressed Fx0A executes again (PC - 2) and changes nothing else; otherwise a
pressed key's index goes to Vx and PC stays advanced. Which key is the spec's decision D6. -/
def Obligations.AwaitKeyOutsideLegacy : Prop :=
  ∀ (s : State) (x : Reg), s.MODE ≠ .legacy →
    decodeWord (wordI 0xF x 0x0A) = some (.ldk x) ∧
    ∃ t, exec (.ldk x) s = .next t ∧
      ((∀ k, s.keyDown k = false) → t.PC = s.PC - 2 ∧ UnchangedExcept [.PC] s t) ∧
      ((∃ k, s.keyDown k = true) → ∃ k, TakesKey s k ∧ (t.reg x).toNat = k.val ∧ RegsExcept [x] s t ∧
        UnchangedExcept [.V, .draws] s t)

/-- R152 in LEGACY mode: a pressed key is latched, only the release of the latched key ends the wait, and then its index
goes to Vx. Which key is latched is the spec's decision D6. -/
def Obligations.AwaitKeyInLegacy : Prop :=
  ∀ (s : State) (x : Reg), s.MODE = .legacy →
    ∃ t, exec (.ldk x) s = .next t ∧
      (s.KEYWAIT = none → (∀ k, s.keyDown k = false) → t.PC = s.PC - 2 ∧ UnchangedExcept [.PC] s t) ∧
      (s.KEYWAIT = none → (∃ k, s.keyDown k = true) → ∃ k, TakesKey s k ∧ t.KEYWAIT = some k ∧ t.PC = s.PC - 2 ∧
        UnchangedExcept [.PC, .KEYWAIT, .draws] s t) ∧
      (∀ k, s.KEYWAIT = some k → s.keyDown k = true → t.PC = s.PC - 2 ∧ UnchangedExcept [.PC] s t) ∧
      (∀ k, s.KEYWAIT = some k → s.keyDown k = false → (t.reg x).toNat = k.val ∧ t.KEYWAIT = none ∧
        RegsExcept [x] s t ∧ UnchangedExcept [.V, .KEYWAIT] s t)

/-- R153, R154, R155: Fx07 reads DT, Fx15 writes DT, Fx18 writes ST. -/
def Obligations.TimerMoves : Prop :=
  ∀ (s : State) (x : Reg),
    (decodeWord (wordI 0xF x 0x07) = some (.lddt x) ∧
      ∃ t, exec (.lddt x) s = .next t ∧ t.reg x = s.DT ∧ RegsExcept [x] s t ∧ UnchangedExcept [.V] s t) ∧
    (decodeWord (wordI 0xF x 0x15) = some (.stdt x) ∧
      ∃ t, exec (.stdt x) s = .next t ∧ t.DT = s.reg x ∧ UnchangedExcept [.DT] s t) ∧
    (decodeWord (wordI 0xF x 0x18) = some (.stst x) ∧
      ∃ t, exec (.stst x) s = .next t ∧ t.ST = s.reg x ∧ UnchangedExcept [.ST] s t)

/-- R172: one tick while RUNNING takes one from each timer that is above 0; while STOPPED the TIMER changes nothing
(log entry 3). One tick for both timers is the spec's decision D21. -/
def Obligations.TickDecrementsBothTimers : Prop :=
  ∀ s : State, s.nextTurn = .timer →
    ∃ t, step s = .next t ∧ UnchangedExcept [.DT, .ST] s.afterPick t ∧
      (s.RUN = .running → t.DT.toNat = s.DT.toNat - 1 ∧ t.ST.toNat = s.ST.toNat - 1) ∧
      (s.RUN = .stopped → t.DT = s.DT ∧ t.ST = s.ST)

/-- R172, the document's timer property: after k ticks with nothing between them, DT is max(0, N - k) and ST likewise. -/
def Obligations.TimersCountDownToZero : Prop :=
  ∀ (k : Nat) (s : State) (rest : List Turn), s.RUN = .running → s.schedule = List.replicate k .timer ++ rest →
    ∃ t : State, Host.Core.run Sys2Proof.core k s = .next t ∧ t.DT.toNat = s.DT.toNat - k ∧
      t.ST.toNat = s.ST.toNat - k ∧ t.schedule = rest ∧ UnchangedExcept [.DT, .ST, .schedule] s t

/-! ### The other agents' moves and the lifecycle -/

/-- R177, R178: publishFrame sets the slot, whatever it held; snapshotDisplay gives the display and changes nothing; each is
enabled always. -/
def Obligations.RefresherMoves : Prop :=
  ∀ s : State,
    (s.nextTurn = .publishFrame → ∃ t, step s = .next t ∧ t.FRAME_READY = true ∧
      UnchangedExcept [.FRAME_READY] s.afterPick t) ∧
    (s.nextTurn = .snapshotDisplay → step s = .next s.afterPick ∧
      ∀ row col, s.snapshotDisplay.pixel row col = s.DISP.pixel row col)

/-- 60_exceptions.md section 7: setKey sets one key level and nothing else, and is enabled always. An index above 15 changes
nothing: the model's reading of "rejected at that boundary" (log entry 8). -/
def Obligations.SetKeySetsOneLevel : Prop :=
  ∀ (s : State) (index : Nat) (pressed : Bool), s.nextTurn = .setKey index pressed → ∃ t, step s = .next t ∧
    (∀ k : Key, t.keyDown k = if k.val = index then pressed else s.keyDown k) ∧ UnchangedExcept [.KEYS] s.afterPick t

/-- R201: `reset(mode)` while STOPPED installs the reset state, in any state, the one before the first reset included. The
value of IR, which R201 leaves unspecified, is not claimed. MEM_FILL, FONT, KEYS, FRAME_READY, KEYWAIT, PHASE and REPORT are
the spec's decisions D8, D2, D27, D10, D23, D22, D26. -/
def Obligations.ResetInstallsResetState : Prop :=
  ∀ (s : State) (mode : Mode) (rest : List HostOp), s.nextTurn = .host → s.hostOps = .reset mode :: rest →
    s.RUN = .stopped →
    ∃ t, step s = .next t ∧ (∀ a, t.memRead a = s.cfg.resetByte (a.toNat % 4096)) ∧ (∀ r, t.reg r = 0) ∧
      t.I = 0 ∧ t.PC = 512 ∧ t.STACK = [] ∧ t.DT = 0 ∧ t.ST = 0 ∧ (∀ row col, t.DISP.pixel row col = false) ∧
      (∀ k, t.keyDown k = false) ∧ t.MODE = mode ∧ t.FRAME_READY = false ∧ t.KEYWAIT = none ∧ t.PHASE = .fetch ∧
      t.REPORT = [] ∧ t.RUN = .stopped ∧ t.resetDone = true ∧ t.hostOps = rest ∧ t.cfg = s.cfg

/-- R26: what memory holds after a reset: the font at 0x50 to 0x9F, glyph d and row r at 0x50 + 5 d + r, `MEM_FILL`
everywhere else (the spec's decisions D2 and D8, here for every value of the two parameters). -/
def Obligations.ResetMemoryIsFontAndFill : Prop :=
  ∀ c : Config,
    (∀ (d : Fin 16) (r : Fin 5), c.resetByte (0x50 + 5 * d.val + r.val) = c.font[5 * d.val + r.val]) ∧
    (∀ a, a < 0x50 ∨ 0xA0 ≤ a → c.resetByte a = c.memFill)

/-- R203: `loadRom` while STOPPED after a reset places byte i at 512 + i for the first 3584 bytes, ignores the rest and
changes nothing else. -/
def Obligations.LoadRomPlacesImage : Prop :=
  ∀ (s : State) (bytes : List Byte) (rest : List HostOp), s.nextTurn = .host → s.hostOps = .loadRom bytes :: rest →
    s.RUN = .stopped → s.resetDone = true →
    ∃ t, step s = .next t ∧
      (∀ i (h : i < bytes.length), i < 3584 → t.memRead (BitVec.ofNat 16 (512 + i)) = bytes[i]) ∧
      (∀ a : Word, a.toNat % 4096 < 512 ∨ 512 + bytes.length ≤ a.toNat % 4096 → t.memRead a = s.memRead a) ∧
      t.hostOps = rest ∧ UnchangedExcept [.MEM, .hostOps] s.afterPick t

/-- R205, R206: `start()` sets RUN to RUNNING and `stop()`, at an instruction boundary, to STOPPED; neither changes anything
else, and inside a held draw a `stop()` waits (log entry 3). A start from any state is the spec's decision D14. -/
def Obligations.StartAndStopChangeOnlyRun : Prop :=
  ∀ (s : State) (rest : List HostOp), s.nextTurn = .host →
    (s.hostOps = .start :: rest → s.RUN = .stopped → s.resetDone = true →
      ∃ t, step s = .next t ∧ t.RUN = .running ∧ t.hostOps = rest ∧ UnchangedExcept [.RUN, .hostOps] s.afterPick t) ∧
    (s.hostOps = .stop :: rest → s.RUN = .running → s.PHASE = .fetch →
      ∃ t, step s = .next t ∧ t.RUN = .stopped ∧ t.hostOps = rest ∧ UnchangedExcept [.RUN, .hostOps] s.afterPick t) ∧
    (s.hostOps = .stop :: rest → s.RUN = .running → s.PHASE = .drawWait → step s = .next s.afterPick)

/-- R200, R202, R219: a lifecycle operation that is not enabled has no step, and the model refuses it by name (log entry 3),
except a `stop()` while a draw is held (RUNNING, DRAW_WAIT), which is not enabled either but waits in the queue
(StartAndStopChangeOnlyRun; R205, log entry 3). The time before the first reset is the spec's decision D13. -/
def Obligations.LifecycleMisuseHasNoStep : Prop :=
  ∀ (s : State) (rest : List HostOp), s.nextTurn = .host →
    (∀ mode, s.hostOps = .reset mode :: rest → s.RUN = .running → step s = .refused .resetWhileRunning) ∧
    (∀ bytes, s.hostOps = .loadRom bytes :: rest → s.RUN = .running ∨ s.resetDone = false →
      step s = .refused .loadRomNotEnabled) ∧
    (s.hostOps = .start :: rest → s.RUN = .running ∨ s.resetDone = false → step s = .refused .startNotEnabled) ∧
    (s.hostOps = .stop :: rest → s.RUN = .stopped → step s = .refused .stopWhileStopped)

/-! ### The whole machine -/

/-- Every step keeps the invariant, from every state that has it (R24, R26, R32, R33, R36). -/
def Obligations.EveryStepKeepsTheInvariant : Prop :=
  ∀ s t : State, s.Inv → step s = .next t → t.Inv

/-- The state after reset has the invariant. -/
def Obligations.ResetStateHasTheInvariant : Prop := State.reset.Inv

/-- R20 to R31: the spec's reset values in the state after reset (MODE, RUN and IR, on which the model names a value or the
spec's own power-on decision speaks, are not part of it). KEYS, FRAME_READY, KEYWAIT, PHASE, REPORT and memory's fill and
font are the spec's decisions D27, D10, D23, D22, D26, D8 and D2 (log entries 21, 18, 23 and 4). -/
def Obligations.ResetStateValues : Prop :=
  (∀ r, State.reset.reg r = 0) ∧ State.reset.PC = 512 ∧ State.reset.I = 0 ∧ State.reset.STACK = [] ∧
  State.reset.DT = 0 ∧ State.reset.ST = 0 ∧ (∀ k, State.reset.keyDown k = false) ∧
  (∀ row col, State.reset.DISP.pixel row col = false) ∧
  (∀ a, State.reset.memRead a = State.reset.cfg.resetByte (a.toNat % 4096)) ∧
  State.reset.FRAME_READY = false ∧ State.reset.KEYWAIT = none ∧ State.reset.PHASE = .fetch ∧ State.reset.REPORT = []

/-- R161, R76: no word stops the core: with the default unbounded stack every turn of the CORE answers a next state, in
every state. That a turn also answers where the spec gives the CORE no enabled step (STOPPED, or a held draw with
FRAME_READY = 0; R141, R183) is the model's own choice (log entry 3). -/
def Obligations.NoWordStopsTheCore : Prop :=
  ∀ s : State, s.cfg.stackDepth = none → ∃ t, s.coreTurn = .next t

/-- R163, R161: the only fault of the block is a 2nnn executed on a full finite stack (the spec's decision
D4). -/
def Obligations.OnlyFaultIsStackOverflow : Prop :=
  ∀ (s : State) (f : Fault), step s = .fault f →
    f = .stackOverflow ∧ s.nextTurn = .core ∧ s.RUN = .running ∧ s.PHASE = .fetch ∧
      ∃ d nnn, s.cfg.stackDepth = some d ∧ d ≤ s.STACK.length ∧ decodeWord s.fetchWord = some (.call nnn)

/-- R29: the mode changes only through a reset. That no step changes the parameters is the model's own choice of where they
stand (log entry 1; R4 and R37 are behind it). -/
def Obligations.ModeChangesOnlyByReset : Prop :=
  ∀ s t : State, step s = .next t → t.cfg = s.cfg ∧
    (t.MODE = s.MODE ∨ ∃ rest, s.nextTurn = .host ∧ s.hostOps = .reset t.MODE :: rest ∧ s.RUN = .stopped)

/-- R29, 90_conflicts.md C1: the three non-LEGACY modes behave alike in every instruction. It compares two executions and
takes the draw as given: both draw from the same counter and so get the same free value (log entry 2), where the hardware's
two draws need not agree (R34, R220). -/
def Obligations.NonLegacyModesBehaveAlike : Prop :=
  ∀ (i : Instr) (s t : State) (m : Mode), s.MODE ≠ .legacy → m ≠ .legacy → exec i s = .next t →
    exec i { s with MODE := m } = .next { t with MODE := m }

/-- R25, R35: no instruction reads ST or REPORT: with other values there, every instruction does the same to all the rest. It
compares two executions and takes the draw as given: both draw from the same counter and so get the same free value (log
entry 2), where the hardware's two draws need not agree (R34, R220). -/
def Obligations.SoundTimerAndReportAreNeverRead : Prop :=
  ∀ (i : Instr) (s t : State) (b : Byte) (log : List Word), exec i s = .next t →
    ∃ b' log', exec i { s with ST := b, REPORT := log } = .next { t with ST := b', REPORT := log' }

/-- R66: who may write what. While RUNNING each component is written only by its agents, the TIMER only decrements, the
REFRESHER only sets FRAME_READY and the CORE only clears it; while STOPPED only the HOST writes anything but KEYS and
FRAME_READY, and the CORE and the TIMER write nothing. -/
def Obligations.SingleWriterDiscipline : Prop :=
  ∀ s t : State, step s = .next t →
    (s.RUN = .running →
      (s.nextTurn ≠ .core → ∀ p ∈ ([.MEM, .V, .I, .PC, .STACK, .KEYWAIT, .PHASE, .IR, .DISP] : List Part), p.same s t) ∧
      ((∀ k b, s.nextTurn ≠ .setKey k b) → Part.same s t .KEYS) ∧
      (s.nextTurn ≠ .core → s.nextTurn ≠ .timer → Part.same s t .DT ∧ Part.same s t .ST) ∧
      (s.nextTurn = .timer → t.DT.toNat ≤ s.DT.toNat ∧ t.ST.toNat ≤ s.ST.toNat) ∧
      (s.nextTurn ≠ .core → s.nextTurn ≠ .publishFrame → Part.same s t .FRAME_READY) ∧
      (s.nextTurn = .core → t.FRAME_READY = true → s.FRAME_READY = true) ∧
      (s.nextTurn = .publishFrame → t.FRAME_READY = true)) ∧
    (s.RUN = .stopped → s.nextTurn ≠ .host → UnchangedExcept [.KEYS, .FRAME_READY] s.afterPick t) ∧
    (s.RUN = .stopped → s.nextTurn = .core ∨ s.nextTurn = .timer → t = s.afterPick)

/-- What `exec` of an instruction writes (R23 to R26, R32, R33, R35): of the components with a clause here, one that it changes
is its own; V, PC and the model's draw counter may change and have no clause. `exec` of a LEGACY Dxyn is its first step
only: the second step, a CORE turn of its own that draws and clears FRAME_READY (R31, R141), is
HeldDrawCompletesOnFrameReady. The two steps are the spec's decision D22 (log entry 18). -/
def Obligations.InstructionsWriteOnlyTheirOwn : Prop :=
  ∀ (i : Instr) (s t : State), exec i s = .next t →
    UnchangedExcept [.V, .PC, .I, .STACK, .DT, .ST, .MEM, .DISP, .KEYWAIT, .PHASE, .IR, .REPORT, .draws] s t ∧
    (t.STACK ≠ s.STACK → i = .ret ∨ ∃ nnn, i = .call nnn) ∧
    (t.I ≠ s.I → (∃ nnn, i = .ldidx nnn) ∨ (∃ x, i = .addidx x) ∨ (∃ x, i = .ldfont x) ∨
      s.MODE = .legacy ∧ ((∃ x, i = .stm x) ∨ ∃ x, i = .ldm x)) ∧
    (t.DT ≠ s.DT → ∃ x, i = .stdt x) ∧ (t.ST ≠ s.ST → ∃ x, i = .stst x) ∧
    (t.MEM ≠ s.MEM → (∃ x, i = .bcd x) ∨ ∃ x, i = .stm x) ∧
    (t.DISP ≠ s.DISP → i = .cls ∨ ∃ x y n, i = .drw x y n) ∧
    (t.KEYWAIT ≠ s.KEYWAIT → s.MODE = .legacy ∧ ∃ x, i = .ldk x) ∧
    (t.PHASE ≠ s.PHASE ∨ t.IR ≠ s.IR → s.MODE = .legacy ∧ ∃ x y n, i = .drw x y n) ∧
    (t.REPORT ≠ s.REPORT → s.cfg.annnPolicy = .unsupported ∧ ∃ nnn, i = .ldidx nnn)

/-- `exec` changes VF only in an instruction that writes it as a flag (R21; the logic operations in LEGACY mode only) or names
it as its destination. Dxyn stands here outside LEGACY mode only, though R21 lists it in all modes: `exec` of a LEGACY Dxyn
is its first step, which holds the draw, and VF is written in the second, a CORE turn of its own (R141;
HeldDrawCompletesOnFrameReady). The two steps are the spec's decision D22 (log entry 18). -/
def Obligations.FlagRegisterWriters : Prop :=
  ∀ (i : Instr) (s t : State), exec i s = .next t → t.reg VF ≠ s.reg VF →
    (∃ x y, i = .add x y ∨ i = .sub x y ∨ i = .shr x y ∨ i = .subn x y ∨ i = .shl x y) ∨
    (∃ x y n, i = .drw x y n ∧ s.MODE ≠ .legacy) ∨
    (∃ x y, (i = .or x y ∨ i = .and x y ∨ i = .xor x y) ∧ (s.MODE = .legacy ∨ x = VF)) ∨
    (∃ nn, i = .ldi VF nn ∨ i = .addi VF nn ∨ i = .rnd VF nn) ∨ (∃ y, i = .mov VF y) ∨
    i = .lddt VF ∨ i = .ldk VF ∨ i = .ldm VF
end

