-- ==== Sys2Proof/Laws/Decode.lean ====
section
/-! SUPPORT. Laws/Decode.lean: words as numbers, and the fields of a word built by a format: what decoding and encoding meet on. -/

namespace Sys2Proof

theorem append_toNat {m n : Nat} (a : BitVec m) (b : BitVec n) : (a ++ b).toNat = a.toNat * 2 ^ n + b.toNat := by
  rw [BitVec.toNat_append, ← Nat.shiftLeft_add_eq_or_of_lt b.isLt, Nat.shiftLeft_eq]

theorem slice_toNat {w : Nat} (a : BitVec w) (lo len : Nat) :
    (a.extractLsb' lo len).toNat = a.toNat / 2 ^ lo % 2 ^ len := by
  rw [BitVec.extractLsb'_toNat, Nat.shiftRight_eq_div_pow]

theorem wordA_toNat (f : BitVec 4) (nnn : Addr12) : (wordA f nnn).toNat = f.toNat * 4096 + nnn.toNat :=
  append_toNat f nnn

theorem wordI_toNat (f : BitVec 4) (x : Reg) (nn : Byte) :
    (wordI f x nn).toNat = f.toNat * 4096 + (x.val * 256 + nn.toNat) := by
  refine (append_toNat f ((BitVec.ofFin x : BitVec 4) ++ nn)).trans ?_
  rw [append_toNat]
  rfl

theorem wordR_toNat (f : BitVec 4) (x y n : Fin 16) :
    (wordR f x y n).toNat = f.toNat * 4096 + (x.val * 256 + (y.val * 16 + n.val)) := by
  refine (append_toNat f
    ((BitVec.ofFin x : BitVec 4) ++ ((BitVec.ofFin y : BitVec 4) ++ (BitVec.ofFin n : BitVec 4)))).trans ?_
  rw [append_toNat, append_toNat]
  rfl

theorem fieldFamily_toNat (op : Word) : (fieldFamily op).toNat = op.toNat / 4096 % 16 := slice_toNat op 12 4
theorem fieldX_val (op : Word) : (fieldX op).val = op.toNat / 256 % 16 := slice_toNat op 8 4
theorem fieldY_val (op : Word) : (fieldY op).val = op.toNat / 16 % 16 := slice_toNat op 4 4
theorem fieldN_val (op : Word) : (fieldN op).val = op.toNat % 16 := by
  exact (slice_toNat op 0 4).trans (by rw [Nat.pow_zero, Nat.div_one]; rfl)
theorem fieldNN_toNat (op : Word) : (fieldNN op).toNat = op.toNat % 256 := by
  exact (slice_toNat op 0 8).trans (by rw [Nat.pow_zero, Nat.div_one]; rfl)
theorem fieldNNN_toNat (op : Word) : (fieldNNN op).toNat = op.toNat % 4096 := by
  exact (slice_toNat op 0 12).trans (by rw [Nat.pow_zero, Nat.div_one]; rfl)
theorem highByte_toNat (op : Word) : (highByte op).toNat = op.toNat / 256 % 256 := slice_toNat op 8 8
theorem lowByte_toNat (op : Word) : (lowByte op).toNat = op.toNat % 256 := by
  exact (slice_toNat op 0 8).trans (by rw [Nat.pow_zero, Nat.div_one]; rfl)
theorem wordOfBytes_toNat (b1 b2 : Byte) : (wordOfBytes b1 b2).toNat = b1.toNat * 256 + b2.toNat :=
  append_toNat b1 b2

/-! ### The bytes of a word -/

@[simp] theorem wordOfBytes_high_low (op : Word) : wordOfBytes (highByte op) (lowByte op) = op := by
  apply BitVec.eq_of_toNat_eq
  have := op.isLt
  rw [wordOfBytes_toNat, highByte_toNat, lowByte_toNat]
  omega

@[simp] theorem highByte_wordOfBytes (a b : Byte) : highByte (wordOfBytes a b) = a := by
  apply BitVec.eq_of_toNat_eq
  have := a.isLt
  have := b.isLt
  rw [highByte_toNat, wordOfBytes_toNat]
  omega

@[simp] theorem lowByte_wordOfBytes (a b : Byte) : lowByte (wordOfBytes a b) = b := by
  apply BitVec.eq_of_toNat_eq
  have := b.isLt
  rw [lowByte_toNat, wordOfBytes_toNat]
  omega

/-! ### Format A -/

@[simp] theorem fieldFamily_wordA (f : BitVec 4) (nnn : Addr12) : fieldFamily (wordA f nnn) = f := by
  apply BitVec.eq_of_toNat_eq
  have := f.isLt
  have := nnn.isLt
  rw [fieldFamily_toNat, wordA_toNat]
  omega

@[simp] theorem fieldNNN_wordA (f : BitVec 4) (nnn : Addr12) : fieldNNN (wordA f nnn) = nnn := by
  apply BitVec.eq_of_toNat_eq
  have := nnn.isLt
  rw [fieldNNN_toNat, wordA_toNat]
  omega

/-! ### Format I (and X) -/

@[simp] theorem fieldFamily_wordI (f : BitVec 4) (x : Reg) (nn : Byte) : fieldFamily (wordI f x nn) = f := by
  apply BitVec.eq_of_toNat_eq
  have := f.isLt
  have := nn.isLt
  rw [fieldFamily_toNat, wordI_toNat]
  omega

@[simp] theorem fieldX_wordI (f : BitVec 4) (x : Reg) (nn : Byte) : fieldX (wordI f x nn) = x := by
  apply Fin.ext
  have := nn.isLt
  rw [fieldX_val, wordI_toNat]
  omega

@[simp] theorem fieldNN_wordI (f : BitVec 4) (x : Reg) (nn : Byte) : fieldNN (wordI f x nn) = nn := by
  apply BitVec.eq_of_toNat_eq
  have := nn.isLt
  rw [fieldNN_toNat, wordI_toNat]
  omega

/-! ### Format R (and D) -/

@[simp] theorem fieldFamily_wordR (f : BitVec 4) (x y n : Fin 16) : fieldFamily (wordR f x y n) = f := by
  apply BitVec.eq_of_toNat_eq
  have := f.isLt
  rw [fieldFamily_toNat, wordR_toNat]
  omega

@[simp] theorem fieldX_wordR (f : BitVec 4) (x y n : Fin 16) : fieldX (wordR f x y n) = x := by
  apply Fin.ext
  rw [fieldX_val, wordR_toNat]
  omega

@[simp] theorem fieldY_wordR (f : BitVec 4) (x y n : Fin 16) : fieldY (wordR f x y n) = y := by
  apply Fin.ext
  rw [fieldY_val, wordR_toNat]
  omega

@[simp] theorem fieldN_wordR (f : BitVec 4) (x y n : Fin 16) : fieldN (wordR f x y n) = n := by
  apply Fin.ext
  rw [fieldN_val, wordR_toNat]
  omega

/-! ### A word is its fields -/

theorem word_eq_wordA {op : Word} {f : BitVec 4} (h : fieldFamily op = f) : op = wordA f (fieldNNN op) := by
  subst h
  apply BitVec.eq_of_toNat_eq
  have := op.isLt
  rw [wordA_toNat, fieldFamily_toNat, fieldNNN_toNat]
  omega

theorem word_eq_wordI {op : Word} {f : BitVec 4} (h : fieldFamily op = f) : op = wordI f (fieldX op) (fieldNN op) := by
  subst h
  apply BitVec.eq_of_toNat_eq
  have := op.isLt
  rw [wordI_toNat, fieldFamily_toNat, fieldX_val, fieldNN_toNat]
  omega

theorem word_eq_wordR {op : Word} {f : BitVec 4} (h : fieldFamily op = f) :
    op = wordR f (fieldX op) (fieldY op) (fieldN op) := by
  subst h
  apply BitVec.eq_of_toNat_eq
  have := op.isLt
  rw [wordR_toNat, fieldFamily_toNat, fieldX_val, fieldY_val, fieldN_val]
  omega

/-- A bit vector with the value of a literal is the literal. -/
theorem eq_ofNat_of_toNat {n k : Nat} {a : BitVec n} (h : a.toNat = k) : a = BitVec.ofNat n k := by
  rw [← h, BitVec.ofNat_toNat, BitVec.setWidth_eq]

/-! ### A mask test is a test of fields (R74) -/

theorem and_split (x k m1 m2 : Nat) (h : m2 < 2 ^ k) :
    x &&& (m1 * 2 ^ k + m2) = (x / 2 ^ k &&& m1) * 2 ^ k + (x % 2 ^ k &&& m2) := by
  have hr : x % 2 ^ k &&& m2 < 2 ^ k := Nat.and_lt_two_pow _ h
  apply Nat.eq_of_testBit_eq
  intro i
  rw [Nat.mul_comm m1, Nat.mul_comm (x / 2 ^ k &&& m1)]
  by_cases hi : i < k
  · simp [Nat.testBit_two_pow_mul_add _ h, Nat.testBit_two_pow_mul_add _ hr, hi]
  · simp [Nat.testBit_two_pow_mul_add _ h, Nat.testBit_two_pow_mul_add _ hr, hi, Nat.testBit_div_two_pow,
      Nat.sub_add_cancel (Nat.le_of_not_lt hi)]

/-- The mask 0xF000 keeps the family. -/
theorem and_F000_toNat (op : Word) : (op &&& 0xF000#16).toNat = op.toNat / 4096 * 4096 := by
  have h := and_split op.toNat 12 15 0 (by decide)
  have hlt := op.isLt
  rw [show (15 : Nat) = 2 ^ 4 - 1 from rfl, Nat.and_two_pow_sub_one_eq_mod] at h
  refine Eq.trans ?_ (h.trans ?_)
  · rfl
  · simp only [Nat.and_zero]
    omega

/-- The mask 0xF00F keeps the family and the low nibble. -/
theorem and_F00F_toNat (op : Word) : (op &&& 0xF00F#16).toNat = op.toNat / 4096 * 4096 + op.toNat % 16 := by
  have h := and_split op.toNat 12 15 15 (by decide)
  have hlt := op.isLt
  rw [show (15 : Nat) = 2 ^ 4 - 1 from rfl, Nat.and_two_pow_sub_one_eq_mod, Nat.and_two_pow_sub_one_eq_mod] at h
  refine Eq.trans ?_ (h.trans ?_)
  · rfl
  · omega

/-- The mask 0xF0FF keeps the family and the low byte. -/
theorem and_F0FF_toNat (op : Word) : (op &&& 0xF0FF#16).toNat = op.toNat / 4096 * 4096 + op.toNat % 256 := by
  have h := and_split op.toNat 12 15 255 (by decide)
  have hlt := op.isLt
  rw [show (15 : Nat) = 2 ^ 4 - 1 from rfl, Nat.and_two_pow_sub_one_eq_mod,
    show (255 : Nat) = 2 ^ 8 - 1 from rfl, Nat.and_two_pow_sub_one_eq_mod] at h
  refine Eq.trans ?_ (h.trans ?_)
  · rfl
  · omega

/-- The mask 0xFFFF keeps the word. -/
theorem and_FFFF (op : Word) : op &&& 0xFFFF#16 = op := BitVec.and_allOnes

end Sys2Proof
end

