-- ==== Sys2Proof/Laws/State.lean ====
section
/-! SUPPORT. Laws/State.lean: what each named update does to each field of the state, and to the observers that do not see it:
one lemma per field per update, true by definition, so that no later proof unfolds an update. -/

namespace Sys2Proof.Machine

variable (s : State)

/-! ### `setReg` -/

@[simp] theorem setReg_V (x : Reg) (b : Byte) : (s.setReg x b).V = s.V.set x.val b := rfl
@[simp] theorem setReg_PC (x : Reg) (b : Byte) : (s.setReg x b).PC = s.PC := rfl
@[simp] theorem setReg_I (x : Reg) (b : Byte) : (s.setReg x b).I = s.I := rfl
@[simp] theorem setReg_STACK (x : Reg) (b : Byte) : (s.setReg x b).STACK = s.STACK := rfl
@[simp] theorem setReg_DT (x : Reg) (b : Byte) : (s.setReg x b).DT = s.DT := rfl
@[simp] theorem setReg_ST (x : Reg) (b : Byte) : (s.setReg x b).ST = s.ST := rfl
@[simp] theorem setReg_MEM (x : Reg) (b : Byte) : (s.setReg x b).MEM = s.MEM := rfl
@[simp] theorem setReg_DISP (x : Reg) (b : Byte) : (s.setReg x b).DISP = s.DISP := rfl
@[simp] theorem setReg_KEYS (x : Reg) (b : Byte) : (s.setReg x b).KEYS = s.KEYS := rfl
@[simp] theorem setReg_MODE (x : Reg) (b : Byte) : (s.setReg x b).MODE = s.MODE := rfl
@[simp] theorem setReg_RUN (x : Reg) (b : Byte) : (s.setReg x b).RUN = s.RUN := rfl
@[simp] theorem setReg_FRAME_READY (x : Reg) (b : Byte) : (s.setReg x b).FRAME_READY = s.FRAME_READY := rfl
@[simp] theorem setReg_KEYWAIT (x : Reg) (b : Byte) : (s.setReg x b).KEYWAIT = s.KEYWAIT := rfl
@[simp] theorem setReg_PHASE (x : Reg) (b : Byte) : (s.setReg x b).PHASE = s.PHASE := rfl
@[simp] theorem setReg_IR (x : Reg) (b : Byte) : (s.setReg x b).IR = s.IR := rfl
@[simp] theorem setReg_REPORT (x : Reg) (b : Byte) : (s.setReg x b).REPORT = s.REPORT := rfl
@[simp] theorem setReg_cfg (x : Reg) (b : Byte) : (s.setReg x b).cfg = s.cfg := rfl
@[simp] theorem setReg_resetDone (x : Reg) (b : Byte) : (s.setReg x b).resetDone = s.resetDone := rfl
@[simp] theorem setReg_draws (x : Reg) (b : Byte) : (s.setReg x b).draws = s.draws := rfl
@[simp] theorem setReg_schedule (x : Reg) (b : Byte) : (s.setReg x b).schedule = s.schedule := rfl
@[simp] theorem setReg_hostOps (x : Reg) (b : Byte) : (s.setReg x b).hostOps = s.hostOps := rfl
@[simp] theorem memRead_setReg (x : Reg) (b : Byte) (c : Word) : (s.setReg x b).memRead c = s.memRead c := rfl
@[simp] theorem isLegacy_setReg (x : Reg) (b : Byte) : (s.setReg x b).isLegacy = s.isLegacy := rfl
@[simp] theorem keyDown_setReg (x : Reg) (b : Byte) (j : Key) : (s.setReg x b).keyDown j = s.keyDown j := rfl
@[simp] theorem selectKey_setReg (x : Reg) (b : Byte) : (s.setReg x b).selectKey = s.selectKey := rfl
@[simp] theorem stackFull_setReg (x : Reg) (b : Byte) : (s.setReg x b).stackFull = s.stackFull := rfl

/-! ### `memWrite` -/

@[simp] theorem memWrite_V (a : Word) (v : Byte) : (s.memWrite a v).V = s.V := rfl
@[simp] theorem memWrite_PC (a : Word) (v : Byte) : (s.memWrite a v).PC = s.PC := rfl
@[simp] theorem memWrite_I (a : Word) (v : Byte) : (s.memWrite a v).I = s.I := rfl
@[simp] theorem memWrite_STACK (a : Word) (v : Byte) : (s.memWrite a v).STACK = s.STACK := rfl
@[simp] theorem memWrite_DT (a : Word) (v : Byte) : (s.memWrite a v).DT = s.DT := rfl
@[simp] theorem memWrite_ST (a : Word) (v : Byte) : (s.memWrite a v).ST = s.ST := rfl
@[simp] theorem memWrite_MEM (a : Word) (v : Byte) : (s.memWrite a v).MEM = Memory.write s.cfg s.MEM (memIndex a) v := rfl
@[simp] theorem memWrite_DISP (a : Word) (v : Byte) : (s.memWrite a v).DISP = s.DISP := rfl
@[simp] theorem memWrite_KEYS (a : Word) (v : Byte) : (s.memWrite a v).KEYS = s.KEYS := rfl
@[simp] theorem memWrite_MODE (a : Word) (v : Byte) : (s.memWrite a v).MODE = s.MODE := rfl
@[simp] theorem memWrite_RUN (a : Word) (v : Byte) : (s.memWrite a v).RUN = s.RUN := rfl
@[simp] theorem memWrite_FRAME_READY (a : Word) (v : Byte) : (s.memWrite a v).FRAME_READY = s.FRAME_READY := rfl
@[simp] theorem memWrite_KEYWAIT (a : Word) (v : Byte) : (s.memWrite a v).KEYWAIT = s.KEYWAIT := rfl
@[simp] theorem memWrite_PHASE (a : Word) (v : Byte) : (s.memWrite a v).PHASE = s.PHASE := rfl
@[simp] theorem memWrite_IR (a : Word) (v : Byte) : (s.memWrite a v).IR = s.IR := rfl
@[simp] theorem memWrite_REPORT (a : Word) (v : Byte) : (s.memWrite a v).REPORT = s.REPORT := rfl
@[simp] theorem memWrite_cfg (a : Word) (v : Byte) : (s.memWrite a v).cfg = s.cfg := rfl
@[simp] theorem memWrite_resetDone (a : Word) (v : Byte) : (s.memWrite a v).resetDone = s.resetDone := rfl
@[simp] theorem memWrite_draws (a : Word) (v : Byte) : (s.memWrite a v).draws = s.draws := rfl
@[simp] theorem memWrite_schedule (a : Word) (v : Byte) : (s.memWrite a v).schedule = s.schedule := rfl
@[simp] theorem memWrite_hostOps (a : Word) (v : Byte) : (s.memWrite a v).hostOps = s.hostOps := rfl
@[simp] theorem reg_memWrite (a : Word) (v : Byte) (r : Reg) : (s.memWrite a v).reg r = s.reg r := rfl
@[simp] theorem isLegacy_memWrite (a : Word) (v : Byte) : (s.memWrite a v).isLegacy = s.isLegacy := rfl
@[simp] theorem keyDown_memWrite (a : Word) (v : Byte) (j : Key) : (s.memWrite a v).keyDown j = s.keyDown j := rfl
@[simp] theorem selectKey_memWrite (a : Word) (v : Byte) : (s.memWrite a v).selectKey = s.selectKey := rfl
@[simp] theorem stackFull_memWrite (a : Word) (v : Byte) : (s.memWrite a v).stackFull = s.stackFull := rfl

/-! ### `setPC` -/

@[simp] theorem setPC_V (w : Word) : (s.setPC w).V = s.V := rfl
@[simp] theorem setPC_PC (w : Word) : (s.setPC w).PC = w := rfl
@[simp] theorem setPC_I (w : Word) : (s.setPC w).I = s.I := rfl
@[simp] theorem setPC_STACK (w : Word) : (s.setPC w).STACK = s.STACK := rfl
@[simp] theorem setPC_DT (w : Word) : (s.setPC w).DT = s.DT := rfl
@[simp] theorem setPC_ST (w : Word) : (s.setPC w).ST = s.ST := rfl
@[simp] theorem setPC_MEM (w : Word) : (s.setPC w).MEM = s.MEM := rfl
@[simp] theorem setPC_DISP (w : Word) : (s.setPC w).DISP = s.DISP := rfl
@[simp] theorem setPC_KEYS (w : Word) : (s.setPC w).KEYS = s.KEYS := rfl
@[simp] theorem setPC_MODE (w : Word) : (s.setPC w).MODE = s.MODE := rfl
@[simp] theorem setPC_RUN (w : Word) : (s.setPC w).RUN = s.RUN := rfl
@[simp] theorem setPC_FRAME_READY (w : Word) : (s.setPC w).FRAME_READY = s.FRAME_READY := rfl
@[simp] theorem setPC_KEYWAIT (w : Word) : (s.setPC w).KEYWAIT = s.KEYWAIT := rfl
@[simp] theorem setPC_PHASE (w : Word) : (s.setPC w).PHASE = s.PHASE := rfl
@[simp] theorem setPC_IR (w : Word) : (s.setPC w).IR = s.IR := rfl
@[simp] theorem setPC_REPORT (w : Word) : (s.setPC w).REPORT = s.REPORT := rfl
@[simp] theorem setPC_cfg (w : Word) : (s.setPC w).cfg = s.cfg := rfl
@[simp] theorem setPC_resetDone (w : Word) : (s.setPC w).resetDone = s.resetDone := rfl
@[simp] theorem setPC_draws (w : Word) : (s.setPC w).draws = s.draws := rfl
@[simp] theorem setPC_schedule (w : Word) : (s.setPC w).schedule = s.schedule := rfl
@[simp] theorem setPC_hostOps (w : Word) : (s.setPC w).hostOps = s.hostOps := rfl
@[simp] theorem reg_setPC (w : Word) (r : Reg) : (s.setPC w).reg r = s.reg r := rfl
@[simp] theorem memRead_setPC (w : Word) (c : Word) : (s.setPC w).memRead c = s.memRead c := rfl
@[simp] theorem isLegacy_setPC (w : Word) : (s.setPC w).isLegacy = s.isLegacy := rfl
@[simp] theorem keyDown_setPC (w : Word) (j : Key) : (s.setPC w).keyDown j = s.keyDown j := rfl
@[simp] theorem selectKey_setPC (w : Word) : (s.setPC w).selectKey = s.selectKey := rfl
@[simp] theorem stackFull_setPC (w : Word) : (s.setPC w).stackFull = s.stackFull := rfl

/-! ### `advancePC` -/

@[simp] theorem advancePC_V : (s.advancePC).V = s.V := rfl
@[simp] theorem advancePC_PC : (s.advancePC).PC = s.PC + 2 := rfl
@[simp] theorem advancePC_I : (s.advancePC).I = s.I := rfl
@[simp] theorem advancePC_STACK : (s.advancePC).STACK = s.STACK := rfl
@[simp] theorem advancePC_DT : (s.advancePC).DT = s.DT := rfl
@[simp] theorem advancePC_ST : (s.advancePC).ST = s.ST := rfl
@[simp] theorem advancePC_MEM : (s.advancePC).MEM = s.MEM := rfl
@[simp] theorem advancePC_DISP : (s.advancePC).DISP = s.DISP := rfl
@[simp] theorem advancePC_KEYS : (s.advancePC).KEYS = s.KEYS := rfl
@[simp] theorem advancePC_MODE : (s.advancePC).MODE = s.MODE := rfl
@[simp] theorem advancePC_RUN : (s.advancePC).RUN = s.RUN := rfl
@[simp] theorem advancePC_FRAME_READY : (s.advancePC).FRAME_READY = s.FRAME_READY := rfl
@[simp] theorem advancePC_KEYWAIT : (s.advancePC).KEYWAIT = s.KEYWAIT := rfl
@[simp] theorem advancePC_PHASE : (s.advancePC).PHASE = s.PHASE := rfl
@[simp] theorem advancePC_IR : (s.advancePC).IR = s.IR := rfl
@[simp] theorem advancePC_REPORT : (s.advancePC).REPORT = s.REPORT := rfl
@[simp] theorem advancePC_cfg : (s.advancePC).cfg = s.cfg := rfl
@[simp] theorem advancePC_resetDone : (s.advancePC).resetDone = s.resetDone := rfl
@[simp] theorem advancePC_draws : (s.advancePC).draws = s.draws := rfl
@[simp] theorem advancePC_schedule : (s.advancePC).schedule = s.schedule := rfl
@[simp] theorem advancePC_hostOps : (s.advancePC).hostOps = s.hostOps := rfl
@[simp] theorem reg_advancePC (r : Reg) : (s.advancePC).reg r = s.reg r := rfl
@[simp] theorem memRead_advancePC (c : Word) : (s.advancePC).memRead c = s.memRead c := rfl
@[simp] theorem isLegacy_advancePC : (s.advancePC).isLegacy = s.isLegacy := rfl
@[simp] theorem keyDown_advancePC (j : Key) : (s.advancePC).keyDown j = s.keyDown j := rfl
@[simp] theorem selectKey_advancePC : (s.advancePC).selectKey = s.selectKey := rfl
@[simp] theorem stackFull_advancePC : (s.advancePC).stackFull = s.stackFull := rfl

/-! ### `skip` -/

@[simp] theorem skip_V : (s.skip).V = s.V := rfl
@[simp] theorem skip_PC : (s.skip).PC = s.PC + 2 := rfl
@[simp] theorem skip_I : (s.skip).I = s.I := rfl
@[simp] theorem skip_STACK : (s.skip).STACK = s.STACK := rfl
@[simp] theorem skip_DT : (s.skip).DT = s.DT := rfl
@[simp] theorem skip_ST : (s.skip).ST = s.ST := rfl
@[simp] theorem skip_MEM : (s.skip).MEM = s.MEM := rfl
@[simp] theorem skip_DISP : (s.skip).DISP = s.DISP := rfl
@[simp] theorem skip_KEYS : (s.skip).KEYS = s.KEYS := rfl
@[simp] theorem skip_MODE : (s.skip).MODE = s.MODE := rfl
@[simp] theorem skip_RUN : (s.skip).RUN = s.RUN := rfl
@[simp] theorem skip_FRAME_READY : (s.skip).FRAME_READY = s.FRAME_READY := rfl
@[simp] theorem skip_KEYWAIT : (s.skip).KEYWAIT = s.KEYWAIT := rfl
@[simp] theorem skip_PHASE : (s.skip).PHASE = s.PHASE := rfl
@[simp] theorem skip_IR : (s.skip).IR = s.IR := rfl
@[simp] theorem skip_REPORT : (s.skip).REPORT = s.REPORT := rfl
@[simp] theorem skip_cfg : (s.skip).cfg = s.cfg := rfl
@[simp] theorem skip_resetDone : (s.skip).resetDone = s.resetDone := rfl
@[simp] theorem skip_draws : (s.skip).draws = s.draws := rfl
@[simp] theorem skip_schedule : (s.skip).schedule = s.schedule := rfl
@[simp] theorem skip_hostOps : (s.skip).hostOps = s.hostOps := rfl
@[simp] theorem reg_skip (r : Reg) : (s.skip).reg r = s.reg r := rfl
@[simp] theorem memRead_skip (c : Word) : (s.skip).memRead c = s.memRead c := rfl
@[simp] theorem isLegacy_skip : (s.skip).isLegacy = s.isLegacy := rfl
@[simp] theorem keyDown_skip (j : Key) : (s.skip).keyDown j = s.keyDown j := rfl
@[simp] theorem selectKey_skip : (s.skip).selectKey = s.selectKey := rfl
@[simp] theorem stackFull_skip : (s.skip).stackFull = s.stackFull := rfl

/-! ### `rewindPC` -/

@[simp] theorem rewindPC_V : (s.rewindPC).V = s.V := rfl
@[simp] theorem rewindPC_PC : (s.rewindPC).PC = s.PC - 2 := rfl
@[simp] theorem rewindPC_I : (s.rewindPC).I = s.I := rfl
@[simp] theorem rewindPC_STACK : (s.rewindPC).STACK = s.STACK := rfl
@[simp] theorem rewindPC_DT : (s.rewindPC).DT = s.DT := rfl
@[simp] theorem rewindPC_ST : (s.rewindPC).ST = s.ST := rfl
@[simp] theorem rewindPC_MEM : (s.rewindPC).MEM = s.MEM := rfl
@[simp] theorem rewindPC_DISP : (s.rewindPC).DISP = s.DISP := rfl
@[simp] theorem rewindPC_KEYS : (s.rewindPC).KEYS = s.KEYS := rfl
@[simp] theorem rewindPC_MODE : (s.rewindPC).MODE = s.MODE := rfl
@[simp] theorem rewindPC_RUN : (s.rewindPC).RUN = s.RUN := rfl
@[simp] theorem rewindPC_FRAME_READY : (s.rewindPC).FRAME_READY = s.FRAME_READY := rfl
@[simp] theorem rewindPC_KEYWAIT : (s.rewindPC).KEYWAIT = s.KEYWAIT := rfl
@[simp] theorem rewindPC_PHASE : (s.rewindPC).PHASE = s.PHASE := rfl
@[simp] theorem rewindPC_IR : (s.rewindPC).IR = s.IR := rfl
@[simp] theorem rewindPC_REPORT : (s.rewindPC).REPORT = s.REPORT := rfl
@[simp] theorem rewindPC_cfg : (s.rewindPC).cfg = s.cfg := rfl
@[simp] theorem rewindPC_resetDone : (s.rewindPC).resetDone = s.resetDone := rfl
@[simp] theorem rewindPC_draws : (s.rewindPC).draws = s.draws := rfl
@[simp] theorem rewindPC_schedule : (s.rewindPC).schedule = s.schedule := rfl
@[simp] theorem rewindPC_hostOps : (s.rewindPC).hostOps = s.hostOps := rfl
@[simp] theorem reg_rewindPC (r : Reg) : (s.rewindPC).reg r = s.reg r := rfl
@[simp] theorem memRead_rewindPC (c : Word) : (s.rewindPC).memRead c = s.memRead c := rfl
@[simp] theorem isLegacy_rewindPC : (s.rewindPC).isLegacy = s.isLegacy := rfl
@[simp] theorem keyDown_rewindPC (j : Key) : (s.rewindPC).keyDown j = s.keyDown j := rfl
@[simp] theorem selectKey_rewindPC : (s.rewindPC).selectKey = s.selectKey := rfl
@[simp] theorem stackFull_rewindPC : (s.rewindPC).stackFull = s.stackFull := rfl

/-! ### `setI` -/

@[simp] theorem setI_V (w : Word) : (s.setI w).V = s.V := rfl
@[simp] theorem setI_PC (w : Word) : (s.setI w).PC = s.PC := rfl
@[simp] theorem setI_I (w : Word) : (s.setI w).I = w := rfl
@[simp] theorem setI_STACK (w : Word) : (s.setI w).STACK = s.STACK := rfl
@[simp] theorem setI_DT (w : Word) : (s.setI w).DT = s.DT := rfl
@[simp] theorem setI_ST (w : Word) : (s.setI w).ST = s.ST := rfl
@[simp] theorem setI_MEM (w : Word) : (s.setI w).MEM = s.MEM := rfl
@[simp] theorem setI_DISP (w : Word) : (s.setI w).DISP = s.DISP := rfl
@[simp] theorem setI_KEYS (w : Word) : (s.setI w).KEYS = s.KEYS := rfl
@[simp] theorem setI_MODE (w : Word) : (s.setI w).MODE = s.MODE := rfl
@[simp] theorem setI_RUN (w : Word) : (s.setI w).RUN = s.RUN := rfl
@[simp] theorem setI_FRAME_READY (w : Word) : (s.setI w).FRAME_READY = s.FRAME_READY := rfl
@[simp] theorem setI_KEYWAIT (w : Word) : (s.setI w).KEYWAIT = s.KEYWAIT := rfl
@[simp] theorem setI_PHASE (w : Word) : (s.setI w).PHASE = s.PHASE := rfl
@[simp] theorem setI_IR (w : Word) : (s.setI w).IR = s.IR := rfl
@[simp] theorem setI_REPORT (w : Word) : (s.setI w).REPORT = s.REPORT := rfl
@[simp] theorem setI_cfg (w : Word) : (s.setI w).cfg = s.cfg := rfl
@[simp] theorem setI_resetDone (w : Word) : (s.setI w).resetDone = s.resetDone := rfl
@[simp] theorem setI_draws (w : Word) : (s.setI w).draws = s.draws := rfl
@[simp] theorem setI_schedule (w : Word) : (s.setI w).schedule = s.schedule := rfl
@[simp] theorem setI_hostOps (w : Word) : (s.setI w).hostOps = s.hostOps := rfl
@[simp] theorem reg_setI (w : Word) (r : Reg) : (s.setI w).reg r = s.reg r := rfl
@[simp] theorem memRead_setI (w : Word) (c : Word) : (s.setI w).memRead c = s.memRead c := rfl
@[simp] theorem isLegacy_setI (w : Word) : (s.setI w).isLegacy = s.isLegacy := rfl
@[simp] theorem keyDown_setI (w : Word) (j : Key) : (s.setI w).keyDown j = s.keyDown j := rfl
@[simp] theorem selectKey_setI (w : Word) : (s.setI w).selectKey = s.selectKey := rfl
@[simp] theorem stackFull_setI (w : Word) : (s.setI w).stackFull = s.stackFull := rfl

/-! ### `push` -/

@[simp] theorem push_V (w : Word) : (s.push w).V = s.V := rfl
@[simp] theorem push_PC (w : Word) : (s.push w).PC = s.PC := rfl
@[simp] theorem push_I (w : Word) : (s.push w).I = s.I := rfl
@[simp] theorem push_STACK (w : Word) : (s.push w).STACK = w :: s.STACK := rfl
@[simp] theorem push_DT (w : Word) : (s.push w).DT = s.DT := rfl
@[simp] theorem push_ST (w : Word) : (s.push w).ST = s.ST := rfl
@[simp] theorem push_MEM (w : Word) : (s.push w).MEM = s.MEM := rfl
@[simp] theorem push_DISP (w : Word) : (s.push w).DISP = s.DISP := rfl
@[simp] theorem push_KEYS (w : Word) : (s.push w).KEYS = s.KEYS := rfl
@[simp] theorem push_MODE (w : Word) : (s.push w).MODE = s.MODE := rfl
@[simp] theorem push_RUN (w : Word) : (s.push w).RUN = s.RUN := rfl
@[simp] theorem push_FRAME_READY (w : Word) : (s.push w).FRAME_READY = s.FRAME_READY := rfl
@[simp] theorem push_KEYWAIT (w : Word) : (s.push w).KEYWAIT = s.KEYWAIT := rfl
@[simp] theorem push_PHASE (w : Word) : (s.push w).PHASE = s.PHASE := rfl
@[simp] theorem push_IR (w : Word) : (s.push w).IR = s.IR := rfl
@[simp] theorem push_REPORT (w : Word) : (s.push w).REPORT = s.REPORT := rfl
@[simp] theorem push_cfg (w : Word) : (s.push w).cfg = s.cfg := rfl
@[simp] theorem push_resetDone (w : Word) : (s.push w).resetDone = s.resetDone := rfl
@[simp] theorem push_draws (w : Word) : (s.push w).draws = s.draws := rfl
@[simp] theorem push_schedule (w : Word) : (s.push w).schedule = s.schedule := rfl
@[simp] theorem push_hostOps (w : Word) : (s.push w).hostOps = s.hostOps := rfl
@[simp] theorem reg_push (w : Word) (r : Reg) : (s.push w).reg r = s.reg r := rfl
@[simp] theorem memRead_push (w : Word) (c : Word) : (s.push w).memRead c = s.memRead c := rfl
@[simp] theorem isLegacy_push (w : Word) : (s.push w).isLegacy = s.isLegacy := rfl
@[simp] theorem keyDown_push (w : Word) (j : Key) : (s.push w).keyDown j = s.keyDown j := rfl
@[simp] theorem selectKey_push (w : Word) : (s.push w).selectKey = s.selectKey := rfl

/-! ### `popped` -/

@[simp] theorem popped_V : (s.popped).V = s.V := rfl
@[simp] theorem popped_PC : (s.popped).PC = s.PC := rfl
@[simp] theorem popped_I : (s.popped).I = s.I := rfl
@[simp] theorem popped_STACK : (s.popped).STACK = s.STACK.tail := rfl
@[simp] theorem popped_DT : (s.popped).DT = s.DT := rfl
@[simp] theorem popped_ST : (s.popped).ST = s.ST := rfl
@[simp] theorem popped_MEM : (s.popped).MEM = s.MEM := rfl
@[simp] theorem popped_DISP : (s.popped).DISP = s.DISP := rfl
@[simp] theorem popped_KEYS : (s.popped).KEYS = s.KEYS := rfl
@[simp] theorem popped_MODE : (s.popped).MODE = s.MODE := rfl
@[simp] theorem popped_RUN : (s.popped).RUN = s.RUN := rfl
@[simp] theorem popped_FRAME_READY : (s.popped).FRAME_READY = s.FRAME_READY := rfl
@[simp] theorem popped_KEYWAIT : (s.popped).KEYWAIT = s.KEYWAIT := rfl
@[simp] theorem popped_PHASE : (s.popped).PHASE = s.PHASE := rfl
@[simp] theorem popped_IR : (s.popped).IR = s.IR := rfl
@[simp] theorem popped_REPORT : (s.popped).REPORT = s.REPORT := rfl
@[simp] theorem popped_cfg : (s.popped).cfg = s.cfg := rfl
@[simp] theorem popped_resetDone : (s.popped).resetDone = s.resetDone := rfl
@[simp] theorem popped_draws : (s.popped).draws = s.draws := rfl
@[simp] theorem popped_schedule : (s.popped).schedule = s.schedule := rfl
@[simp] theorem popped_hostOps : (s.popped).hostOps = s.hostOps := rfl
@[simp] theorem reg_popped (r : Reg) : (s.popped).reg r = s.reg r := rfl
@[simp] theorem memRead_popped (c : Word) : (s.popped).memRead c = s.memRead c := rfl
@[simp] theorem isLegacy_popped : (s.popped).isLegacy = s.isLegacy := rfl
@[simp] theorem keyDown_popped (j : Key) : (s.popped).keyDown j = s.keyDown j := rfl
@[simp] theorem selectKey_popped : (s.popped).selectKey = s.selectKey := rfl

/-! ### `setDT` -/

@[simp] theorem setDT_V (b : Byte) : (s.setDT b).V = s.V := rfl
@[simp] theorem setDT_PC (b : Byte) : (s.setDT b).PC = s.PC := rfl
@[simp] theorem setDT_I (b : Byte) : (s.setDT b).I = s.I := rfl
@[simp] theorem setDT_STACK (b : Byte) : (s.setDT b).STACK = s.STACK := rfl
@[simp] theorem setDT_DT (b : Byte) : (s.setDT b).DT = b := rfl
@[simp] theorem setDT_ST (b : Byte) : (s.setDT b).ST = s.ST := rfl
@[simp] theorem setDT_MEM (b : Byte) : (s.setDT b).MEM = s.MEM := rfl
@[simp] theorem setDT_DISP (b : Byte) : (s.setDT b).DISP = s.DISP := rfl
@[simp] theorem setDT_KEYS (b : Byte) : (s.setDT b).KEYS = s.KEYS := rfl
@[simp] theorem setDT_MODE (b : Byte) : (s.setDT b).MODE = s.MODE := rfl
@[simp] theorem setDT_RUN (b : Byte) : (s.setDT b).RUN = s.RUN := rfl
@[simp] theorem setDT_FRAME_READY (b : Byte) : (s.setDT b).FRAME_READY = s.FRAME_READY := rfl
@[simp] theorem setDT_KEYWAIT (b : Byte) : (s.setDT b).KEYWAIT = s.KEYWAIT := rfl
@[simp] theorem setDT_PHASE (b : Byte) : (s.setDT b).PHASE = s.PHASE := rfl
@[simp] theorem setDT_IR (b : Byte) : (s.setDT b).IR = s.IR := rfl
@[simp] theorem setDT_REPORT (b : Byte) : (s.setDT b).REPORT = s.REPORT := rfl
@[simp] theorem setDT_cfg (b : Byte) : (s.setDT b).cfg = s.cfg := rfl
@[simp] theorem setDT_resetDone (b : Byte) : (s.setDT b).resetDone = s.resetDone := rfl
@[simp] theorem setDT_draws (b : Byte) : (s.setDT b).draws = s.draws := rfl
@[simp] theorem setDT_schedule (b : Byte) : (s.setDT b).schedule = s.schedule := rfl
@[simp] theorem setDT_hostOps (b : Byte) : (s.setDT b).hostOps = s.hostOps := rfl
@[simp] theorem reg_setDT (b : Byte) (r : Reg) : (s.setDT b).reg r = s.reg r := rfl
@[simp] theorem memRead_setDT (b : Byte) (c : Word) : (s.setDT b).memRead c = s.memRead c := rfl
@[simp] theorem isLegacy_setDT (b : Byte) : (s.setDT b).isLegacy = s.isLegacy := rfl
@[simp] theorem keyDown_setDT (b : Byte) (j : Key) : (s.setDT b).keyDown j = s.keyDown j := rfl
@[simp] theorem selectKey_setDT (b : Byte) : (s.setDT b).selectKey = s.selectKey := rfl
@[simp] theorem stackFull_setDT (b : Byte) : (s.setDT b).stackFull = s.stackFull := rfl

/-! ### `setST` -/

@[simp] theorem setST_V (b : Byte) : (s.setST b).V = s.V := rfl
@[simp] theorem setST_PC (b : Byte) : (s.setST b).PC = s.PC := rfl
@[simp] theorem setST_I (b : Byte) : (s.setST b).I = s.I := rfl
@[simp] theorem setST_STACK (b : Byte) : (s.setST b).STACK = s.STACK := rfl
@[simp] theorem setST_DT (b : Byte) : (s.setST b).DT = s.DT := rfl
@[simp] theorem setST_ST (b : Byte) : (s.setST b).ST = b := rfl
@[simp] theorem setST_MEM (b : Byte) : (s.setST b).MEM = s.MEM := rfl
@[simp] theorem setST_DISP (b : Byte) : (s.setST b).DISP = s.DISP := rfl
@[simp] theorem setST_KEYS (b : Byte) : (s.setST b).KEYS = s.KEYS := rfl
@[simp] theorem setST_MODE (b : Byte) : (s.setST b).MODE = s.MODE := rfl
@[simp] theorem setST_RUN (b : Byte) : (s.setST b).RUN = s.RUN := rfl
@[simp] theorem setST_FRAME_READY (b : Byte) : (s.setST b).FRAME_READY = s.FRAME_READY := rfl
@[simp] theorem setST_KEYWAIT (b : Byte) : (s.setST b).KEYWAIT = s.KEYWAIT := rfl
@[simp] theorem setST_PHASE (b : Byte) : (s.setST b).PHASE = s.PHASE := rfl
@[simp] theorem setST_IR (b : Byte) : (s.setST b).IR = s.IR := rfl
@[simp] theorem setST_REPORT (b : Byte) : (s.setST b).REPORT = s.REPORT := rfl
@[simp] theorem setST_cfg (b : Byte) : (s.setST b).cfg = s.cfg := rfl
@[simp] theorem setST_resetDone (b : Byte) : (s.setST b).resetDone = s.resetDone := rfl
@[simp] theorem setST_draws (b : Byte) : (s.setST b).draws = s.draws := rfl
@[simp] theorem setST_schedule (b : Byte) : (s.setST b).schedule = s.schedule := rfl
@[simp] theorem setST_hostOps (b : Byte) : (s.setST b).hostOps = s.hostOps := rfl
@[simp] theorem reg_setST (b : Byte) (r : Reg) : (s.setST b).reg r = s.reg r := rfl
@[simp] theorem memRead_setST (b : Byte) (c : Word) : (s.setST b).memRead c = s.memRead c := rfl
@[simp] theorem isLegacy_setST (b : Byte) : (s.setST b).isLegacy = s.isLegacy := rfl
@[simp] theorem keyDown_setST (b : Byte) (j : Key) : (s.setST b).keyDown j = s.keyDown j := rfl
@[simp] theorem selectKey_setST (b : Byte) : (s.setST b).selectKey = s.selectKey := rfl
@[simp] theorem stackFull_setST (b : Byte) : (s.setST b).stackFull = s.stackFull := rfl

/-! ### `setDisp` -/

@[simp] theorem setDisp_V (d : Display) : (s.setDisp d).V = s.V := rfl
@[simp] theorem setDisp_PC (d : Display) : (s.setDisp d).PC = s.PC := rfl
@[simp] theorem setDisp_I (d : Display) : (s.setDisp d).I = s.I := rfl
@[simp] theorem setDisp_STACK (d : Display) : (s.setDisp d).STACK = s.STACK := rfl
@[simp] theorem setDisp_DT (d : Display) : (s.setDisp d).DT = s.DT := rfl
@[simp] theorem setDisp_ST (d : Display) : (s.setDisp d).ST = s.ST := rfl
@[simp] theorem setDisp_MEM (d : Display) : (s.setDisp d).MEM = s.MEM := rfl
@[simp] theorem setDisp_DISP (d : Display) : (s.setDisp d).DISP = d := rfl
@[simp] theorem setDisp_KEYS (d : Display) : (s.setDisp d).KEYS = s.KEYS := rfl
@[simp] theorem setDisp_MODE (d : Display) : (s.setDisp d).MODE = s.MODE := rfl
@[simp] theorem setDisp_RUN (d : Display) : (s.setDisp d).RUN = s.RUN := rfl
@[simp] theorem setDisp_FRAME_READY (d : Display) : (s.setDisp d).FRAME_READY = s.FRAME_READY := rfl
@[simp] theorem setDisp_KEYWAIT (d : Display) : (s.setDisp d).KEYWAIT = s.KEYWAIT := rfl
@[simp] theorem setDisp_PHASE (d : Display) : (s.setDisp d).PHASE = s.PHASE := rfl
@[simp] theorem setDisp_IR (d : Display) : (s.setDisp d).IR = s.IR := rfl
@[simp] theorem setDisp_REPORT (d : Display) : (s.setDisp d).REPORT = s.REPORT := rfl
@[simp] theorem setDisp_cfg (d : Display) : (s.setDisp d).cfg = s.cfg := rfl
@[simp] theorem setDisp_resetDone (d : Display) : (s.setDisp d).resetDone = s.resetDone := rfl
@[simp] theorem setDisp_draws (d : Display) : (s.setDisp d).draws = s.draws := rfl
@[simp] theorem setDisp_schedule (d : Display) : (s.setDisp d).schedule = s.schedule := rfl
@[simp] theorem setDisp_hostOps (d : Display) : (s.setDisp d).hostOps = s.hostOps := rfl
@[simp] theorem reg_setDisp (d : Display) (r : Reg) : (s.setDisp d).reg r = s.reg r := rfl
@[simp] theorem memRead_setDisp (d : Display) (c : Word) : (s.setDisp d).memRead c = s.memRead c := rfl
@[simp] theorem isLegacy_setDisp (d : Display) : (s.setDisp d).isLegacy = s.isLegacy := rfl
@[simp] theorem keyDown_setDisp (d : Display) (j : Key) : (s.setDisp d).keyDown j = s.keyDown j := rfl
@[simp] theorem selectKey_setDisp (d : Display) : (s.setDisp d).selectKey = s.selectKey := rfl
@[simp] theorem stackFull_setDisp (d : Display) : (s.setDisp d).stackFull = s.stackFull := rfl

/-! ### `setKeyWait` -/

@[simp] theorem setKeyWait_V (k : Option Key) : (s.setKeyWait k).V = s.V := rfl
@[simp] theorem setKeyWait_PC (k : Option Key) : (s.setKeyWait k).PC = s.PC := rfl
@[simp] theorem setKeyWait_I (k : Option Key) : (s.setKeyWait k).I = s.I := rfl
@[simp] theorem setKeyWait_STACK (k : Option Key) : (s.setKeyWait k).STACK = s.STACK := rfl
@[simp] theorem setKeyWait_DT (k : Option Key) : (s.setKeyWait k).DT = s.DT := rfl
@[simp] theorem setKeyWait_ST (k : Option Key) : (s.setKeyWait k).ST = s.ST := rfl
@[simp] theorem setKeyWait_MEM (k : Option Key) : (s.setKeyWait k).MEM = s.MEM := rfl
@[simp] theorem setKeyWait_DISP (k : Option Key) : (s.setKeyWait k).DISP = s.DISP := rfl
@[simp] theorem setKeyWait_KEYS (k : Option Key) : (s.setKeyWait k).KEYS = s.KEYS := rfl
@[simp] theorem setKeyWait_MODE (k : Option Key) : (s.setKeyWait k).MODE = s.MODE := rfl
@[simp] theorem setKeyWait_RUN (k : Option Key) : (s.setKeyWait k).RUN = s.RUN := rfl
@[simp] theorem setKeyWait_FRAME_READY (k : Option Key) : (s.setKeyWait k).FRAME_READY = s.FRAME_READY := rfl
@[simp] theorem setKeyWait_KEYWAIT (k : Option Key) : (s.setKeyWait k).KEYWAIT = k := rfl
@[simp] theorem setKeyWait_PHASE (k : Option Key) : (s.setKeyWait k).PHASE = s.PHASE := rfl
@[simp] theorem setKeyWait_IR (k : Option Key) : (s.setKeyWait k).IR = s.IR := rfl
@[simp] theorem setKeyWait_REPORT (k : Option Key) : (s.setKeyWait k).REPORT = s.REPORT := rfl
@[simp] theorem setKeyWait_cfg (k : Option Key) : (s.setKeyWait k).cfg = s.cfg := rfl
@[simp] theorem setKeyWait_resetDone (k : Option Key) : (s.setKeyWait k).resetDone = s.resetDone := rfl
@[simp] theorem setKeyWait_draws (k : Option Key) : (s.setKeyWait k).draws = s.draws := rfl
@[simp] theorem setKeyWait_schedule (k : Option Key) : (s.setKeyWait k).schedule = s.schedule := rfl
@[simp] theorem setKeyWait_hostOps (k : Option Key) : (s.setKeyWait k).hostOps = s.hostOps := rfl
@[simp] theorem reg_setKeyWait (k : Option Key) (r : Reg) : (s.setKeyWait k).reg r = s.reg r := rfl
@[simp] theorem memRead_setKeyWait (k : Option Key) (c : Word) : (s.setKeyWait k).memRead c = s.memRead c := rfl
@[simp] theorem isLegacy_setKeyWait (k : Option Key) : (s.setKeyWait k).isLegacy = s.isLegacy := rfl
@[simp] theorem keyDown_setKeyWait (k : Option Key) (j : Key) : (s.setKeyWait k).keyDown j = s.keyDown j := rfl
@[simp] theorem selectKey_setKeyWait (k : Option Key) : (s.setKeyWait k).selectKey = s.selectKey := rfl
@[simp] theorem stackFull_setKeyWait (k : Option Key) : (s.setKeyWait k).stackFull = s.stackFull := rfl

/-! ### `reportUnsupported` -/

@[simp] theorem reportUnsupported_V (op : Word) : (s.reportUnsupported op).V = s.V := rfl
@[simp] theorem reportUnsupported_PC (op : Word) : (s.reportUnsupported op).PC = s.PC := rfl
@[simp] theorem reportUnsupported_I (op : Word) : (s.reportUnsupported op).I = s.I := rfl
@[simp] theorem reportUnsupported_STACK (op : Word) : (s.reportUnsupported op).STACK = s.STACK := rfl
@[simp] theorem reportUnsupported_DT (op : Word) : (s.reportUnsupported op).DT = s.DT := rfl
@[simp] theorem reportUnsupported_ST (op : Word) : (s.reportUnsupported op).ST = s.ST := rfl
@[simp] theorem reportUnsupported_MEM (op : Word) : (s.reportUnsupported op).MEM = s.MEM := rfl
@[simp] theorem reportUnsupported_DISP (op : Word) : (s.reportUnsupported op).DISP = s.DISP := rfl
@[simp] theorem reportUnsupported_KEYS (op : Word) : (s.reportUnsupported op).KEYS = s.KEYS := rfl
@[simp] theorem reportUnsupported_MODE (op : Word) : (s.reportUnsupported op).MODE = s.MODE := rfl
@[simp] theorem reportUnsupported_RUN (op : Word) : (s.reportUnsupported op).RUN = s.RUN := rfl
@[simp] theorem reportUnsupported_FRAME_READY (op : Word) : (s.reportUnsupported op).FRAME_READY = s.FRAME_READY := rfl
@[simp] theorem reportUnsupported_KEYWAIT (op : Word) : (s.reportUnsupported op).KEYWAIT = s.KEYWAIT := rfl
@[simp] theorem reportUnsupported_PHASE (op : Word) : (s.reportUnsupported op).PHASE = s.PHASE := rfl
@[simp] theorem reportUnsupported_IR (op : Word) : (s.reportUnsupported op).IR = s.IR := rfl
@[simp] theorem reportUnsupported_REPORT (op : Word) : (s.reportUnsupported op).REPORT = s.REPORT ++ [op] := rfl
@[simp] theorem reportUnsupported_cfg (op : Word) : (s.reportUnsupported op).cfg = s.cfg := rfl
@[simp] theorem reportUnsupported_resetDone (op : Word) : (s.reportUnsupported op).resetDone = s.resetDone := rfl
@[simp] theorem reportUnsupported_draws (op : Word) : (s.reportUnsupported op).draws = s.draws := rfl
@[simp] theorem reportUnsupported_schedule (op : Word) : (s.reportUnsupported op).schedule = s.schedule := rfl
@[simp] theorem reportUnsupported_hostOps (op : Word) : (s.reportUnsupported op).hostOps = s.hostOps := rfl
@[simp] theorem reg_reportUnsupported (op : Word) (r : Reg) : (s.reportUnsupported op).reg r = s.reg r := rfl
@[simp] theorem memRead_reportUnsupported (op : Word) (c : Word) : (s.reportUnsupported op).memRead c = s.memRead c := rfl
@[simp] theorem isLegacy_reportUnsupported (op : Word) : (s.reportUnsupported op).isLegacy = s.isLegacy := rfl
@[simp] theorem keyDown_reportUnsupported (op : Word) (j : Key) : (s.reportUnsupported op).keyDown j = s.keyDown j := rfl
@[simp] theorem selectKey_reportUnsupported (op : Word) : (s.reportUnsupported op).selectKey = s.selectKey := rfl
@[simp] theorem stackFull_reportUnsupported (op : Word) : (s.reportUnsupported op).stackFull = s.stackFull := rfl

/-! ### `drawn` -/

@[simp] theorem drawn_V : (s.drawn).V = s.V := rfl
@[simp] theorem drawn_PC : (s.drawn).PC = s.PC := rfl
@[simp] theorem drawn_I : (s.drawn).I = s.I := rfl
@[simp] theorem drawn_STACK : (s.drawn).STACK = s.STACK := rfl
@[simp] theorem drawn_DT : (s.drawn).DT = s.DT := rfl
@[simp] theorem drawn_ST : (s.drawn).ST = s.ST := rfl
@[simp] theorem drawn_MEM : (s.drawn).MEM = s.MEM := rfl
@[simp] theorem drawn_DISP : (s.drawn).DISP = s.DISP := rfl
@[simp] theorem drawn_KEYS : (s.drawn).KEYS = s.KEYS := rfl
@[simp] theorem drawn_MODE : (s.drawn).MODE = s.MODE := rfl
@[simp] theorem drawn_RUN : (s.drawn).RUN = s.RUN := rfl
@[simp] theorem drawn_FRAME_READY : (s.drawn).FRAME_READY = s.FRAME_READY := rfl
@[simp] theorem drawn_KEYWAIT : (s.drawn).KEYWAIT = s.KEYWAIT := rfl
@[simp] theorem drawn_PHASE : (s.drawn).PHASE = s.PHASE := rfl
@[simp] theorem drawn_IR : (s.drawn).IR = s.IR := rfl
@[simp] theorem drawn_REPORT : (s.drawn).REPORT = s.REPORT := rfl
@[simp] theorem drawn_cfg : (s.drawn).cfg = s.cfg := rfl
@[simp] theorem drawn_resetDone : (s.drawn).resetDone = s.resetDone := rfl
@[simp] theorem drawn_draws : (s.drawn).draws = s.draws + 1 := rfl
@[simp] theorem drawn_schedule : (s.drawn).schedule = s.schedule := rfl
@[simp] theorem drawn_hostOps : (s.drawn).hostOps = s.hostOps := rfl
@[simp] theorem reg_drawn (r : Reg) : (s.drawn).reg r = s.reg r := rfl
@[simp] theorem memRead_drawn (c : Word) : (s.drawn).memRead c = s.memRead c := rfl
@[simp] theorem isLegacy_drawn : (s.drawn).isLegacy = s.isLegacy := rfl
@[simp] theorem keyDown_drawn (j : Key) : (s.drawn).keyDown j = s.keyDown j := rfl
@[simp] theorem stackFull_drawn : (s.drawn).stackFull = s.stackFull := rfl

/-! ### `setFlag` -/

@[simp] theorem setFlag_V (f : Byte) : (s.setFlag f).V = s.V.set VF.val f := rfl
@[simp] theorem setFlag_PC (f : Byte) : (s.setFlag f).PC = s.PC := rfl
@[simp] theorem setFlag_I (f : Byte) : (s.setFlag f).I = s.I := rfl
@[simp] theorem setFlag_STACK (f : Byte) : (s.setFlag f).STACK = s.STACK := rfl
@[simp] theorem setFlag_DT (f : Byte) : (s.setFlag f).DT = s.DT := rfl
@[simp] theorem setFlag_ST (f : Byte) : (s.setFlag f).ST = s.ST := rfl
@[simp] theorem setFlag_MEM (f : Byte) : (s.setFlag f).MEM = s.MEM := rfl
@[simp] theorem setFlag_DISP (f : Byte) : (s.setFlag f).DISP = s.DISP := rfl
@[simp] theorem setFlag_KEYS (f : Byte) : (s.setFlag f).KEYS = s.KEYS := rfl
@[simp] theorem setFlag_MODE (f : Byte) : (s.setFlag f).MODE = s.MODE := rfl
@[simp] theorem setFlag_RUN (f : Byte) : (s.setFlag f).RUN = s.RUN := rfl
@[simp] theorem setFlag_FRAME_READY (f : Byte) : (s.setFlag f).FRAME_READY = s.FRAME_READY := rfl
@[simp] theorem setFlag_KEYWAIT (f : Byte) : (s.setFlag f).KEYWAIT = s.KEYWAIT := rfl
@[simp] theorem setFlag_PHASE (f : Byte) : (s.setFlag f).PHASE = s.PHASE := rfl
@[simp] theorem setFlag_IR (f : Byte) : (s.setFlag f).IR = s.IR := rfl
@[simp] theorem setFlag_REPORT (f : Byte) : (s.setFlag f).REPORT = s.REPORT := rfl
@[simp] theorem setFlag_cfg (f : Byte) : (s.setFlag f).cfg = s.cfg := rfl
@[simp] theorem setFlag_resetDone (f : Byte) : (s.setFlag f).resetDone = s.resetDone := rfl
@[simp] theorem setFlag_draws (f : Byte) : (s.setFlag f).draws = s.draws := rfl
@[simp] theorem setFlag_schedule (f : Byte) : (s.setFlag f).schedule = s.schedule := rfl
@[simp] theorem setFlag_hostOps (f : Byte) : (s.setFlag f).hostOps = s.hostOps := rfl
@[simp] theorem memRead_setFlag (f : Byte) (c : Word) : (s.setFlag f).memRead c = s.memRead c := rfl
@[simp] theorem isLegacy_setFlag (f : Byte) : (s.setFlag f).isLegacy = s.isLegacy := rfl
@[simp] theorem keyDown_setFlag (f : Byte) (j : Key) : (s.setFlag f).keyDown j = s.keyDown j := rfl
@[simp] theorem selectKey_setFlag (f : Byte) : (s.setFlag f).selectKey = s.selectKey := rfl
@[simp] theorem stackFull_setFlag (f : Byte) : (s.setFlag f).stackFull = s.stackFull := rfl

/-! ### `holdDraw` -/

@[simp] theorem holdDraw_V (op : Word) : (s.holdDraw op).V = s.V := rfl
@[simp] theorem holdDraw_PC (op : Word) : (s.holdDraw op).PC = s.PC := rfl
@[simp] theorem holdDraw_I (op : Word) : (s.holdDraw op).I = s.I := rfl
@[simp] theorem holdDraw_STACK (op : Word) : (s.holdDraw op).STACK = s.STACK := rfl
@[simp] theorem holdDraw_DT (op : Word) : (s.holdDraw op).DT = s.DT := rfl
@[simp] theorem holdDraw_ST (op : Word) : (s.holdDraw op).ST = s.ST := rfl
@[simp] theorem holdDraw_MEM (op : Word) : (s.holdDraw op).MEM = s.MEM := rfl
@[simp] theorem holdDraw_DISP (op : Word) : (s.holdDraw op).DISP = s.DISP := rfl
@[simp] theorem holdDraw_KEYS (op : Word) : (s.holdDraw op).KEYS = s.KEYS := rfl
@[simp] theorem holdDraw_MODE (op : Word) : (s.holdDraw op).MODE = s.MODE := rfl
@[simp] theorem holdDraw_RUN (op : Word) : (s.holdDraw op).RUN = s.RUN := rfl
@[simp] theorem holdDraw_FRAME_READY (op : Word) : (s.holdDraw op).FRAME_READY = s.FRAME_READY := rfl
@[simp] theorem holdDraw_KEYWAIT (op : Word) : (s.holdDraw op).KEYWAIT = s.KEYWAIT := rfl
@[simp] theorem holdDraw_PHASE (op : Word) : (s.holdDraw op).PHASE = .drawWait := rfl
@[simp] theorem holdDraw_IR (op : Word) : (s.holdDraw op).IR = op := rfl
@[simp] theorem holdDraw_REPORT (op : Word) : (s.holdDraw op).REPORT = s.REPORT := rfl
@[simp] theorem holdDraw_cfg (op : Word) : (s.holdDraw op).cfg = s.cfg := rfl
@[simp] theorem holdDraw_resetDone (op : Word) : (s.holdDraw op).resetDone = s.resetDone := rfl
@[simp] theorem holdDraw_draws (op : Word) : (s.holdDraw op).draws = s.draws := rfl
@[simp] theorem holdDraw_schedule (op : Word) : (s.holdDraw op).schedule = s.schedule := rfl
@[simp] theorem holdDraw_hostOps (op : Word) : (s.holdDraw op).hostOps = s.hostOps := rfl
@[simp] theorem reg_holdDraw (op : Word) (r : Reg) : (s.holdDraw op).reg r = s.reg r := rfl
@[simp] theorem memRead_holdDraw (op : Word) (c : Word) : (s.holdDraw op).memRead c = s.memRead c := rfl
@[simp] theorem isLegacy_holdDraw (op : Word) : (s.holdDraw op).isLegacy = s.isLegacy := rfl
@[simp] theorem keyDown_holdDraw (op : Word) (j : Key) : (s.holdDraw op).keyDown j = s.keyDown j := rfl
@[simp] theorem selectKey_holdDraw (op : Word) : (s.holdDraw op).selectKey = s.selectKey := rfl
@[simp] theorem stackFull_holdDraw (op : Word) : (s.holdDraw op).stackFull = s.stackFull := rfl

/-! ### `publishFrame` -/

@[simp] theorem publishFrame_V : (s.publishFrame).V = s.V := rfl
@[simp] theorem publishFrame_PC : (s.publishFrame).PC = s.PC := rfl
@[simp] theorem publishFrame_I : (s.publishFrame).I = s.I := rfl
@[simp] theorem publishFrame_STACK : (s.publishFrame).STACK = s.STACK := rfl
@[simp] theorem publishFrame_DT : (s.publishFrame).DT = s.DT := rfl
@[simp] theorem publishFrame_ST : (s.publishFrame).ST = s.ST := rfl
@[simp] theorem publishFrame_MEM : (s.publishFrame).MEM = s.MEM := rfl
@[simp] theorem publishFrame_DISP : (s.publishFrame).DISP = s.DISP := rfl
@[simp] theorem publishFrame_KEYS : (s.publishFrame).KEYS = s.KEYS := rfl
@[simp] theorem publishFrame_MODE : (s.publishFrame).MODE = s.MODE := rfl
@[simp] theorem publishFrame_RUN : (s.publishFrame).RUN = s.RUN := rfl
@[simp] theorem publishFrame_FRAME_READY : (s.publishFrame).FRAME_READY = true := rfl
@[simp] theorem publishFrame_KEYWAIT : (s.publishFrame).KEYWAIT = s.KEYWAIT := rfl
@[simp] theorem publishFrame_PHASE : (s.publishFrame).PHASE = s.PHASE := rfl
@[simp] theorem publishFrame_IR : (s.publishFrame).IR = s.IR := rfl
@[simp] theorem publishFrame_REPORT : (s.publishFrame).REPORT = s.REPORT := rfl
@[simp] theorem publishFrame_cfg : (s.publishFrame).cfg = s.cfg := rfl
@[simp] theorem publishFrame_resetDone : (s.publishFrame).resetDone = s.resetDone := rfl
@[simp] theorem publishFrame_draws : (s.publishFrame).draws = s.draws := rfl
@[simp] theorem publishFrame_schedule : (s.publishFrame).schedule = s.schedule := rfl
@[simp] theorem publishFrame_hostOps : (s.publishFrame).hostOps = s.hostOps := rfl
@[simp] theorem reg_publishFrame (r : Reg) : (s.publishFrame).reg r = s.reg r := rfl
@[simp] theorem memRead_publishFrame (c : Word) : (s.publishFrame).memRead c = s.memRead c := rfl
@[simp] theorem isLegacy_publishFrame : (s.publishFrame).isLegacy = s.isLegacy := rfl
@[simp] theorem keyDown_publishFrame (j : Key) : (s.publishFrame).keyDown j = s.keyDown j := rfl
@[simp] theorem selectKey_publishFrame : (s.publishFrame).selectKey = s.selectKey := rfl
@[simp] theorem stackFull_publishFrame : (s.publishFrame).stackFull = s.stackFull := rfl

/-! ### `hostStart` -/

@[simp] theorem hostStart_V : (s.hostStart).V = s.V := rfl
@[simp] theorem hostStart_PC : (s.hostStart).PC = s.PC := rfl
@[simp] theorem hostStart_I : (s.hostStart).I = s.I := rfl
@[simp] theorem hostStart_STACK : (s.hostStart).STACK = s.STACK := rfl
@[simp] theorem hostStart_DT : (s.hostStart).DT = s.DT := rfl
@[simp] theorem hostStart_ST : (s.hostStart).ST = s.ST := rfl
@[simp] theorem hostStart_MEM : (s.hostStart).MEM = s.MEM := rfl
@[simp] theorem hostStart_DISP : (s.hostStart).DISP = s.DISP := rfl
@[simp] theorem hostStart_KEYS : (s.hostStart).KEYS = s.KEYS := rfl
@[simp] theorem hostStart_MODE : (s.hostStart).MODE = s.MODE := rfl
@[simp] theorem hostStart_RUN : (s.hostStart).RUN = .running := rfl
@[simp] theorem hostStart_FRAME_READY : (s.hostStart).FRAME_READY = s.FRAME_READY := rfl
@[simp] theorem hostStart_KEYWAIT : (s.hostStart).KEYWAIT = s.KEYWAIT := rfl
@[simp] theorem hostStart_PHASE : (s.hostStart).PHASE = s.PHASE := rfl
@[simp] theorem hostStart_IR : (s.hostStart).IR = s.IR := rfl
@[simp] theorem hostStart_REPORT : (s.hostStart).REPORT = s.REPORT := rfl
@[simp] theorem hostStart_cfg : (s.hostStart).cfg = s.cfg := rfl
@[simp] theorem hostStart_resetDone : (s.hostStart).resetDone = s.resetDone := rfl
@[simp] theorem hostStart_draws : (s.hostStart).draws = s.draws := rfl
@[simp] theorem hostStart_schedule : (s.hostStart).schedule = s.schedule := rfl
@[simp] theorem hostStart_hostOps : (s.hostStart).hostOps = s.hostOps := rfl
@[simp] theorem reg_hostStart (r : Reg) : (s.hostStart).reg r = s.reg r := rfl
@[simp] theorem memRead_hostStart (c : Word) : (s.hostStart).memRead c = s.memRead c := rfl
@[simp] theorem isLegacy_hostStart : (s.hostStart).isLegacy = s.isLegacy := rfl
@[simp] theorem keyDown_hostStart (j : Key) : (s.hostStart).keyDown j = s.keyDown j := rfl
@[simp] theorem selectKey_hostStart : (s.hostStart).selectKey = s.selectKey := rfl
@[simp] theorem stackFull_hostStart : (s.hostStart).stackFull = s.stackFull := rfl

/-! ### `hostStop` -/

@[simp] theorem hostStop_V : (s.hostStop).V = s.V := rfl
@[simp] theorem hostStop_PC : (s.hostStop).PC = s.PC := rfl
@[simp] theorem hostStop_I : (s.hostStop).I = s.I := rfl
@[simp] theorem hostStop_STACK : (s.hostStop).STACK = s.STACK := rfl
@[simp] theorem hostStop_DT : (s.hostStop).DT = s.DT := rfl
@[simp] theorem hostStop_ST : (s.hostStop).ST = s.ST := rfl
@[simp] theorem hostStop_MEM : (s.hostStop).MEM = s.MEM := rfl
@[simp] theorem hostStop_DISP : (s.hostStop).DISP = s.DISP := rfl
@[simp] theorem hostStop_KEYS : (s.hostStop).KEYS = s.KEYS := rfl
@[simp] theorem hostStop_MODE : (s.hostStop).MODE = s.MODE := rfl
@[simp] theorem hostStop_RUN : (s.hostStop).RUN = .stopped := rfl
@[simp] theorem hostStop_FRAME_READY : (s.hostStop).FRAME_READY = s.FRAME_READY := rfl
@[simp] theorem hostStop_KEYWAIT : (s.hostStop).KEYWAIT = s.KEYWAIT := rfl
@[simp] theorem hostStop_PHASE : (s.hostStop).PHASE = s.PHASE := rfl
@[simp] theorem hostStop_IR : (s.hostStop).IR = s.IR := rfl
@[simp] theorem hostStop_REPORT : (s.hostStop).REPORT = s.REPORT := rfl
@[simp] theorem hostStop_cfg : (s.hostStop).cfg = s.cfg := rfl
@[simp] theorem hostStop_resetDone : (s.hostStop).resetDone = s.resetDone := rfl
@[simp] theorem hostStop_draws : (s.hostStop).draws = s.draws := rfl
@[simp] theorem hostStop_schedule : (s.hostStop).schedule = s.schedule := rfl
@[simp] theorem hostStop_hostOps : (s.hostStop).hostOps = s.hostOps := rfl
@[simp] theorem reg_hostStop (r : Reg) : (s.hostStop).reg r = s.reg r := rfl
@[simp] theorem memRead_hostStop (c : Word) : (s.hostStop).memRead c = s.memRead c := rfl
@[simp] theorem isLegacy_hostStop : (s.hostStop).isLegacy = s.isLegacy := rfl
@[simp] theorem keyDown_hostStop (j : Key) : (s.hostStop).keyDown j = s.keyDown j := rfl
@[simp] theorem selectKey_hostStop : (s.hostStop).selectKey = s.selectKey := rfl
@[simp] theorem stackFull_hostStop : (s.hostStop).stackFull = s.stackFull := rfl

/-! ### `hostReset` -/

@[simp] theorem hostReset_V (m : Mode) : (s.hostReset m).V = Vector.replicate 16 0 := rfl
@[simp] theorem hostReset_PC (m : Mode) : (s.hostReset m).PC = BitVec.ofNat 16 Config.progBase := rfl
@[simp] theorem hostReset_I (m : Mode) : (s.hostReset m).I = 0 := rfl
@[simp] theorem hostReset_STACK (m : Mode) : (s.hostReset m).STACK = [] := rfl
@[simp] theorem hostReset_DT (m : Mode) : (s.hostReset m).DT = 0 := rfl
@[simp] theorem hostReset_ST (m : Mode) : (s.hostReset m).ST = 0 := rfl
@[simp] theorem hostReset_MEM (m : Mode) : (s.hostReset m).MEM = [] := rfl
@[simp] theorem hostReset_DISP (m : Mode) : (s.hostReset m).DISP = Display.blank := rfl
@[simp] theorem hostReset_KEYS (m : Mode) : (s.hostReset m).KEYS = Vector.replicate 16 false := rfl
@[simp] theorem hostReset_MODE (m : Mode) : (s.hostReset m).MODE = m := rfl
@[simp] theorem hostReset_RUN (m : Mode) : (s.hostReset m).RUN = s.RUN := rfl
@[simp] theorem hostReset_FRAME_READY (m : Mode) : (s.hostReset m).FRAME_READY = false := rfl
@[simp] theorem hostReset_KEYWAIT (m : Mode) : (s.hostReset m).KEYWAIT = none := rfl
@[simp] theorem hostReset_PHASE (m : Mode) : (s.hostReset m).PHASE = .fetch := rfl
@[simp] theorem hostReset_IR (m : Mode) : (s.hostReset m).IR = 0 := rfl
@[simp] theorem hostReset_REPORT (m : Mode) : (s.hostReset m).REPORT = [] := rfl
@[simp] theorem hostReset_cfg (m : Mode) : (s.hostReset m).cfg = s.cfg := rfl
@[simp] theorem hostReset_resetDone (m : Mode) : (s.hostReset m).resetDone = true := rfl
@[simp] theorem hostReset_draws (m : Mode) : (s.hostReset m).draws = s.draws := rfl
@[simp] theorem hostReset_schedule (m : Mode) : (s.hostReset m).schedule = s.schedule := rfl
@[simp] theorem hostReset_hostOps (m : Mode) : (s.hostReset m).hostOps = s.hostOps := rfl

end Sys2Proof.Machine
end

