-- ==== Sys2Proof/Laws/Memory.lean ====
section
/-! SUPPORT. Laws/Memory.lean: reading after writing, the canonical form every memory operation keeps, and that canonical
memories that read alike are equal. -/

namespace Sys2Proof.Machine

variable (c : Config)

theorem Memory.read_cons_ne {b a : Nat} {w : Byte} {m : Memory} (h : a ≠ b) :
    Memory.read c ((b, w) :: m) a = Memory.read c m a := by
  simp [Memory.read, h]

/-- An address below every listed one reads its reset byte. -/
theorem Memory.read_of_lt {a : Nat} {m : Memory} (h : ∀ p ∈ m, a < p.1) : Memory.read c m a = c.resetByte a := by
  induction m with
  | nil => rfl
  | cons p m ih =>
    obtain ⟨b, w⟩ := p
    rw [Memory.read_cons_ne c (Nat.ne_of_lt (h (b, w) (by simp)))]
    exact ih fun q hq => h q (by simp [hq])

theorem Memory.read_erase_same (m : Memory) (a : Nat) : Memory.read c (m.erase a) a = c.resetByte a := by
  induction m with
  | nil => rfl
  | cons p m ih =>
    obtain ⟨b, w⟩ := p
    by_cases h : b = a
    · simpa [Memory.erase, h] using ih
    · simpa [Memory.erase, h, Memory.read, Ne.symm h] using ih

theorem Memory.read_erase_ne (m : Memory) {a k : Nat} (hk : k ≠ a) :
    Memory.read c (m.erase a) k = Memory.read c m k := by
  induction m with
  | nil => rfl
  | cons p m ih =>
    obtain ⟨b, w⟩ := p
    by_cases h : b = a
    · subst h
      simpa [Memory.erase, Memory.read, hk] using ih
    · by_cases hkb : k = b
      · simp [Memory.erase, h, Memory.read, hkb]
      · simpa [Memory.erase, h, Memory.read, hkb] using ih

theorem Memory.mem_erase {m : Memory} {a : Nat} {p : Host.Cell} : p ∈ m.erase a ↔ p ∈ m ∧ p.1 ≠ a := by
  simp [Memory.erase]

theorem Memory.read_insert_ne (m : Memory) {a k : Nat} (v : Byte) (hk : k ≠ a) :
    Memory.read c (m.insert a v) k = Memory.read c m k := by
  induction m with
  | nil => exact Memory.read_cons_ne c hk
  | cons p m ih =>
    obtain ⟨b, w⟩ := p
    unfold Memory.insert
    split
    · exact Memory.read_cons_ne c hk
    · simp only [Memory.read, ih]

theorem Memory.read_insert_same {m : Memory} {a : Nat} (v : Byte) (h : ∀ p ∈ m, p.1 ≠ a) :
    Memory.read c (m.insert a v) a = v := by
  induction m with
  | nil => simp [Memory.insert, Memory.read]
  | cons p m ih =>
    obtain ⟨b, w⟩ := p
    unfold Memory.insert
    split
    · simp [Memory.read]
    · rw [Memory.read_cons_ne c (h (b, w) (by simp)).symm]
      exact ih fun q hq => h q (by simp [hq])

/-- A byte written is read back, in any memory. -/
theorem Memory.read_write_same (m : Memory) (a : Nat) (v : Byte) : Memory.read c (Memory.write c m a v) a = v := by
  unfold Memory.write
  split
  · next h => rw [Memory.read_erase_same, h]
  · exact Memory.read_insert_same c v fun p hp => (Memory.mem_erase.mp hp).2

/-- A write leaves every other byte alone. -/
theorem Memory.read_write_ne (m : Memory) {a k : Nat} (v : Byte) (hk : k ≠ a) :
    Memory.read c (Memory.write c m a v) k = Memory.read c m k := by
  unfold Memory.write
  split
  · exact Memory.read_erase_ne c m hk
  · rw [Memory.read_insert_ne c _ v hk, Memory.read_erase_ne c m hk]

theorem Memory.mem_insert {m : Memory} {a : Nat} {v : Byte} {p : Host.Cell} (h : p ∈ m.insert a v) :
    p ∈ m ∨ p = (a, v) := by
  induction m with
  | nil => exact .inr (by simpa [Memory.insert] using h)
  | cons q m ih =>
    obtain ⟨b, w⟩ := q
    unfold Memory.insert at h
    split at h
    · rcases List.mem_cons.mp h with rfl | h
      · exact .inr rfl
      · exact .inl h
    · rcases List.mem_cons.mp h with rfl | h
      · exact .inl List.mem_cons_self
      · exact (ih h).imp_left (List.mem_cons_of_mem _)

theorem Memory.insert_sorted {m : Memory} {a : Nat} (v : Byte) (hm : m.Pairwise (fun p q => p.1 < q.1))
    (h : ∀ p ∈ m, p.1 ≠ a) : (m.insert a v).Pairwise (fun p q => p.1 < q.1) := by
  induction m with
  | nil => simp [Memory.insert]
  | cons p m ih =>
    obtain ⟨b, w⟩ := p
    obtain ⟨hlt, hm'⟩ := List.pairwise_cons.mp hm
    unfold Memory.insert
    split
    · next hab =>
      refine List.pairwise_cons.mpr ⟨fun q hq => ?_, hm⟩
      rcases List.mem_cons.mp hq with rfl | hq
      · exact hab
      · exact Nat.lt_trans hab (hlt q hq)
    · next hab =>
      refine List.pairwise_cons.mpr ⟨fun q hq => ?_, ih hm' fun q hq => h q (by simp [hq])⟩
      rcases Memory.mem_insert hq with hq | rfl
      · exact hlt q hq
      · have : b ≠ a := h (b, w) (by simp)
        show b < a
        omega

/-- A write keeps the canonical form. -/
theorem Memory.write_wf {m : Memory} (hm : Memory.wf c m) {a : Nat} (ha : a < Config.memSize) (v : Byte) :
    Memory.wf c (Memory.write c m a v) := by
  have he : Memory.wf c (m.erase a) :=
    ⟨hm.1.filter _, fun p hp => hm.2 p (Memory.mem_erase.mp hp).1⟩
  unfold Memory.write
  split
  · exact he
  · next hv =>
    refine ⟨Memory.insert_sorted v he.1 fun p hp => (Memory.mem_erase.mp hp).2, fun p hp => ?_⟩
    rcases Memory.mem_insert hp with hp | rfl
    · exact he.2 p hp
    · exact ⟨ha, hv⟩

theorem memIndex_lt (a : Word) : memIndex a < Config.memSize := Nat.mod_lt _ (by decide)

/-- Two canonical memories that read alike are equal. -/
theorem Memory.ext_of_read {m n : Memory} (hm : Memory.wf c m) (hn : Memory.wf c n)
    (h : ∀ a, a < Config.memSize → Memory.read c m a = Memory.read c n a) : m = n := by
  have hread : ∀ a, Memory.read c m a = Memory.read c n a := by
    intro a
    by_cases ha : a < Config.memSize
    · exact h a ha
    · have out : ∀ k : Memory, Memory.wf c k → Memory.read c k a = c.resetByte a := by
        intro k hk
        have hk2 := hk.2
        clear hk
        induction k with
        | nil => rfl
        | cons p k ih =>
          obtain ⟨b, w⟩ := p
          have hb := (hk2 (b, w) (by simp)).1
          rw [Memory.read_cons_ne c (by omega)]
          exact ih fun q hq => hk2 q (by simp [hq])
      rw [out m hm, out n hn]
  clear h
  induction m generalizing n with
  | nil =>
    cases n with
    | nil => rfl
    | cons q n =>
      obtain ⟨b, w⟩ := q
      have := hread b
      simp only [Memory.read, if_true] at this
      exact absurd this.symm (hn.2 (b, w) (by simp)).2
  | cons p m ih =>
    obtain ⟨a, v⟩ := p
    cases n with
    | nil =>
      have := hread a
      simp only [Memory.read, if_true] at this
      exact absurd this (hm.2 (a, v) (by simp)).2
    | cons q n =>
      obtain ⟨b, w⟩ := q
      obtain ⟨hma, hms⟩ := List.pairwise_cons.mp hm.1
      obtain ⟨hnb, hns⟩ := List.pairwise_cons.mp hn.1
      have hva := (hm.2 (a, v) (by simp)).2
      have hwb := (hn.2 (b, w) (by simp)).2
      have below : ∀ {k : Nat} {x : Nat} {y : Byte} {l : Memory}, k < x → (∀ r ∈ l, x < r.1) →
          Memory.read c ((x, y) :: l) k = c.resetByte k := by
        intro k x y l hk hl
        apply Memory.read_of_lt
        intro r hr
        rcases List.mem_cons.mp hr with rfl | hr
        · exact hk
        · exact Nat.lt_trans hk (hl r hr)
      have hab : a = b := by
        rcases Nat.lt_trichotomy a b with hlt | heq | hgt
        · have := hread a
          rw [below hlt hnb] at this
          simp only [Memory.read, if_true] at this
          exact absurd this hva
        · exact heq
        · have := hread b
          rw [below hgt hma] at this
          simp only [Memory.read, if_true] at this
          exact absurd this.symm hwb
      subst hab
      have hvw : v = w := by
        have := hread a
        simpa only [Memory.read, if_true] using this
      subst hvw
      congr 1
      apply ih ⟨hms, fun r hr => hm.2 r (by simp [hr])⟩ ⟨hns, fun r hr => hn.2 r (by simp [hr])⟩
      intro k
      by_cases hk : k = a
      · subst hk
        rw [Memory.read_of_lt c hma, Memory.read_of_lt c hnb]
      · have := hread k
        rwa [Memory.read_cons_ne c hk, Memory.read_cons_ne c hk] at this

end Sys2Proof.Machine
end

