-- ==== Sys2Proof/Laws/Ops.lean ====
section
/-! SUPPORT. Laws/Ops.lean: one lemma per shared operation that says everything it does: registers, memory blocks, conditional
updates and the selection of a key. -/

namespace Sys2Proof.Machine

variable (s : State)

/-! ### Registers -/

theorem reg_setReg (x r : Reg) (b : Byte) : (s.setReg x b).reg r = if r = x then b else s.reg r := by
  simp only [State.reg, State.setReg, Vector.getElem_set]
  by_cases h : r = x
  · simp [h]
  · rw [if_neg (fun e => h (Fin.ext e.symm)), if_neg h]

@[simp] theorem reg_setReg_same (x : Reg) (b : Byte) : (s.setReg x b).reg x = b := by
  rw [reg_setReg, if_pos rfl]

theorem reg_setReg_ne {x r : Reg} (b : Byte) (h : r ≠ x) : (s.setReg x b).reg r = s.reg r := by
  rw [reg_setReg, if_neg h]

theorem reg_setFlag (r : Reg) (f : Byte) : (s.setFlag f).reg r = if r = VF then f else s.reg r := reg_setReg s VF r f

/-- A register write changes V and nothing else. -/
theorem setReg_eq (x : Reg) (b : Byte) : s.setReg x b = { s with V := (s.setReg x b).V } := rfl

/-! ### Memory -/

theorem memRead_memWrite (a k : Word) (v : Byte) :
    (s.memWrite a v).memRead k = if memIndex k = memIndex a then v else s.memRead k := by
  by_cases h : memIndex k = memIndex a
  · rw [if_pos h]
    simp only [State.memRead, memWrite_cfg, memWrite_MEM, h]
    exact Memory.read_write_same _ _ _ _
  · rw [if_neg h]
    exact Memory.read_write_ne _ _ _ h

/-- Address arithmetic modulo 65536 and then 4096 is arithmetic modulo 4096 (R51). -/
theorem memIndex_add (a : Word) (k : Nat) : memIndex (a + BitVec.ofNat 16 k) = (a.toNat + k) % 4096 := by
  simp only [memIndex, Config.memSize, BitVec.toNat_add, BitVec.toNat_ofNat]
  omega

theorem memIndex_eq (a : Word) : memIndex a = a.toNat % 4096 := rfl

theorem add_one_add (a : Word) (k : Nat) : a + 1 + BitVec.ofNat 16 k = a + BitVec.ofNat 16 (k + 1) := by
  apply BitVec.eq_of_toNat_eq
  have h1 : (1 : Word).toNat = 1 := rfl
  simp only [BitVec.toNat_add, BitVec.toNat_ofNat]
  omega

/-- A block store changes MEM and nothing else. -/
theorem memWriteList_eq (a : Word) (vs : List Byte) :
    s.memWriteList a vs = { s with MEM := (s.memWriteList a vs).MEM } := by
  induction vs generalizing s a with
  | nil => rfl
  | cons v vs ih =>
    rw [State.memWriteList, ih]
    rfl

/-- Bytes outside a block store read as before. -/
theorem memRead_memWriteList_outside (a k : Word) (vs : List Byte)
    (h : ∀ j, j < vs.length → memIndex k ≠ memIndex (a + BitVec.ofNat 16 j)) :
    (s.memWriteList a vs).memRead k = s.memRead k := by
  induction vs generalizing s a with
  | nil => rfl
  | cons v vs ih =>
    rw [State.memWriteList, ih]
    · have h0 := h 0 (by simp)
      rw [memIndex_add, Nat.add_zero, ← memIndex_eq] at h0
      rw [memRead_memWrite, if_neg h0]
    · intro j hj
      rw [add_one_add]
      exact h (j + 1) (by simpa using hj)

/-- A stored byte is read back at its place in the block. -/
theorem memRead_memWriteList (a : Word) (vs : List Byte) (hlen : vs.length ≤ 4096) (j : Nat) (hj : j < vs.length) :
    (s.memWriteList a vs).memRead (a + BitVec.ofNat 16 j) = vs[j] := by
  induction vs generalizing s a j with
  | nil => exact absurd hj (by simp)
  | cons v vs ih =>
    have hlen' : vs.length + 1 ≤ 4096 := by simpa using hlen
    rw [State.memWriteList]
    cases j with
    | zero =>
      rw [memRead_memWriteList_outside]
      · rw [memRead_memWrite, if_pos]
        · rfl
        · rw [memIndex_add, Nat.add_zero, memIndex_eq]
      · intro i hi
        rw [add_one_add, memIndex_add, memIndex_add]
        omega
    | succ j =>
      rw [← add_one_add]
      exact ih _ _ (by omega) j (by simpa using hj)

/-- A block store keeps the canonical form. -/
theorem memWriteList_wf (a : Word) (vs : List Byte) (h : Memory.wf s.cfg s.MEM) :
    Memory.wf s.cfg (s.memWriteList a vs).MEM := by
  induction vs generalizing s a with
  | nil => exact h
  | cons v vs ih =>
    rw [State.memWriteList]
    exact ih (s.memWrite a v) (a + 1) (Memory.write_wf _ h (memIndex_lt a) v)

@[simp] theorem length_memReadList (a : Word) (n : Nat) : (s.memReadList a n).length = n := by
  induction n generalizing a with
  | zero => rfl
  | succ n ih => simp [State.memReadList, ih]

theorem getElem_memReadList (a : Word) (n k : Nat) (h : k < (s.memReadList a n).length) :
    (s.memReadList a n)[k] = s.memRead (a + BitVec.ofNat 16 k) := by
  induction n generalizing a k with
  | zero => exact absurd h (by simp [State.memReadList])
  | succ n ih =>
    cases k with
    | zero =>
      simp only [State.memReadList, List.getElem_cons_zero]
      congr 1
      exact (BitVec.add_zero a).symm
    | succ k =>
      simp only [State.memReadList, List.getElem_cons_succ]
      rw [ih, add_one_add]

/-! ### Blocks of registers -/

theorem length_blockRegs (x : Reg) : (blockRegs x).length = x.val + 1 := by
  simp [blockRegs]

theorem getElem_blockRegs (x : Reg) (k : Nat) (h : k < (blockRegs x).length) :
    (blockRegs x)[k] = ⟨k, by have := length_blockRegs x; omega⟩ := by
  simp [blockRegs]

theorem mem_blockRegs (x r : Reg) : r ∈ blockRegs x ↔ r ≤ x := by
  rw [List.mem_iff_getElem]
  constructor
  · rintro ⟨k, hk, rfl⟩
    have := length_blockRegs x
    rw [getElem_blockRegs, Fin.le_def]
    show k ≤ x.val
    omega
  · intro h
    have := length_blockRegs x
    rw [Fin.le_def] at h
    exact ⟨r.val, by omega, by rw [getElem_blockRegs]⟩

/-- A block load changes V and nothing else. -/
theorem loadRegs_eq (a : Word) (rs : List Reg) : s.loadRegs a rs = { s with V := (s.loadRegs a rs).V } := by
  induction rs generalizing s a with
  | nil => rfl
  | cons r rs ih =>
    rw [State.loadRegs, ih]
    rfl

/-- Registers outside a block load keep their value. -/
theorem reg_loadRegs_outside (a : Word) (rs : List Reg) (r : Reg) (h : r ∉ rs) :
    (s.loadRegs a rs).reg r = s.reg r := by
  induction rs generalizing s a with
  | nil => rfl
  | cons q rs ih =>
    rw [State.loadRegs, ih _ _ (fun hr => h (by simp [hr])), reg_setReg_ne]
    exact fun e => h (by simp [e])

/-- A loaded register holds the byte at its place in the block. -/
theorem reg_loadRegs (a : Word) (rs : List Reg) (hrs : rs.Nodup) (k : Nat) (hk : k < rs.length) :
    (s.loadRegs a rs).reg rs[k] = s.memRead (a + BitVec.ofNat 16 k) := by
  induction rs generalizing s a k with
  | nil => exact absurd hk (by simp)
  | cons q rs ih =>
    obtain ⟨hq, hrs⟩ := List.nodup_cons.mp hrs
    rw [State.loadRegs]
    cases k with
    | zero =>
      rw [List.getElem_cons_zero, reg_loadRegs_outside _ _ _ _ hq, reg_setReg_same]
      congr 1
      exact (BitVec.add_zero a).symm
    | succ k =>
      rw [List.getElem_cons_succ, ih _ _ hrs k (by simpa using hk), add_one_add]
      rfl

theorem nodup_blockRegs (x : Reg) : (blockRegs x).Nodup := (List.nodup_finRange 16).take

/-! ### Conditional updates -/

/-- A conditional skip changes PC and nothing else. -/
theorem skipIf_eq (b : Bool) : s.skipIf b = { s with PC := if b then s.PC + 2 else s.PC } := by
  cases b <;> rfl

/-- The LEGACY post-increment changes I and nothing else. -/
theorem postIncrementI_eq (x : Reg) :
    s.postIncrementI x = { s with I := if s.isLegacy then s.blockAddr (x.val + 1) else s.I } := by
  unfold State.postIncrementI
  split <;> rfl

theorem clearFlagIfLegacy_eq : s.clearFlagIfLegacy = { s with V := (s.clearFlagIfLegacy).V } := by
  unfold State.clearFlagIfLegacy
  split <;> rfl

theorem reg_clearFlagIfLegacy (r : Reg) :
    s.clearFlagIfLegacy.reg r = if r = VF ∧ s.isLegacy = true then 0 else s.reg r := by
  unfold State.clearFlagIfLegacy
  by_cases h : s.isLegacy = true
  · simp [h, reg_setFlag]
  · simp [h]

theorem shiftSource_eq (x y : Reg) : s.shiftSource x y = { s with V := (s.shiftSource x y).V } := by
  unfold State.shiftSource
  split <;> rfl

theorem reg_shiftSource (x y r : Reg) :
    (s.shiftSource x y).reg r = if r = x ∧ s.isLegacy = true then s.reg y else s.reg r := by
  unfold State.shiftSource
  by_cases h : s.isLegacy = true
  · simp [h, reg_setReg]
  · simp [h]

theorem isLegacy_iff : s.isLegacy = true ↔ s.MODE = .legacy := by simp [State.isLegacy]

/-! ### The shapes of the ALU instructions (R111) -/

theorem setLogic_eq (x : Reg) (v : Byte) : s.setLogic x v = { s with V := (s.setLogic x v).V } := by
  rw [State.setLogic, clearFlagIfLegacy_eq]
  rfl

theorem reg_setLogic (x r : Reg) (v : Byte) :
    (s.setLogic x v).reg r = if r = VF ∧ s.isLegacy = true then 0 else if r = x then v else s.reg r := by
  rw [State.setLogic, reg_clearFlagIfLegacy, reg_setReg]
  rfl

theorem setWithFlag_eq (x : Reg) (v f : Byte) : s.setWithFlag x v f = { s with V := (s.setWithFlag x v f).V } := rfl

theorem reg_setWithFlag (x r : Reg) (v f : Byte) :
    (s.setWithFlag x v f).reg r = if r = VF then f else if r = x then v else s.reg r := by
  rw [State.setWithFlag, reg_setFlag, reg_setReg]

theorem shiftReg_eq (x : Reg) (out shifted : Byte → Byte) :
    s.shiftReg x out shifted = { s with V := (s.shiftReg x out shifted).V } := rfl

/-- VF ends as the bit out, but for x = F, where the bit out is itself shifted. -/
theorem reg_shiftReg (x r : Reg) (out shifted : Byte → Byte) :
    (s.shiftReg x out shifted).reg r =
      if r = x then shifted (if x = VF then out (s.reg x) else s.reg x)
      else if r = VF then out (s.reg x) else s.reg r := by
  simp only [State.shiftReg, reg_setReg, reg_setFlag]

/-! ### Keys -/

theorem mem_pressedKeys (k : Key) : k ∈ s.pressedKeys ↔ s.keyDown k = true := by
  simp [State.pressedKeys]

/-- `KEY_SELECT` finds nothing exactly when no key is pressed. -/
theorem selectKey_eq_none : s.selectKey = none ↔ ∀ k, s.keyDown k = false := by
  have hempty : s.pressedKeys = [] ↔ ∀ k, s.keyDown k = false := by
    simp [State.pressedKeys, List.filter_eq_nil_iff]
  unfold State.selectKey
  split
  · rw [List.head?_eq_none_iff, hempty]
  · rw [List.getElem?_eq_none_iff, ← hempty]
    constructor
    · intro h
      by_contra hne
      have := Nat.mod_lt (Config.freeIndex s.draws) (List.length_pos_iff.mpr hne)
      omega
    · intro h
      simp [h]

/-- The key selected is pressed. -/
theorem keyDown_of_selectKey {k : Key} (h : s.selectKey = some k) : s.keyDown k = true := by
  rw [← mem_pressedKeys]
  unfold State.selectKey at h
  split at h
  · exact List.mem_of_head? h
  · exact List.mem_of_getElem? h

/-- With the default `KEY_SELECT` it is the lowest. -/
theorem selectKey_lowest {k : Key} (hc : s.cfg.keySelect = .lowestIndex) (h : s.selectKey = some k) (j : Key)
    (hj : s.keyDown j = true) : k ≤ j := by
  rw [← mem_pressedKeys] at hj
  unfold State.selectKey at h
  rw [hc] at h
  have hsorted : s.pressedKeys.Pairwise (· < ·) := (List.pairwise_lt_finRange 16).filter _
  cases hp : s.pressedKeys with
  | nil => rw [hp] at hj; exact absurd hj (by simp)
  | cons a l =>
    rw [hp] at h hj hsorted
    obtain rfl : a = k := by simpa using h
    rcases List.mem_cons.mp hj with rfl | hj
    · exact le_refl _
    · exact le_of_lt ((List.pairwise_cons.mp hsorted).1 j hj)

/-! ### The random byte -/

/-- The byte drawn is in `RAND_SET`. -/
theorem randomByte_mem : s.cfg.randSet.has s.randomByte = true := by
  unfold State.randomByte
  split
  · next h => simp [h, RandSet.has]
  · next first rest h =>
    have hlt : Config.freeIndex s.draws % (rest.length + 1) < (first :: rest).length := by
      simpa using Nat.mod_lt _ (Nat.succ_pos rest.length)
    rw [h, RandSet.has, List.getD_eq_getElem _ _ hlt, List.contains_iff_mem]
    exact List.getElem_mem hlt

end Sys2Proof.Machine
end

