-- ==== Sys2Proof/Laws/Display.lean ====
section
/-! SUPPORT. Laws/Display.lean: a sprite drawn pixel by pixel (43_display.md R141) in closed form: what each pixel ends as and when
the collision is reported. -/

namespace Sys2Proof.Machine

theorem pixel_toggle (d : Display) (r r' : Fin 32) (c c' : Fin 64) :
    (d.toggle r c).pixel r' c' = (d.pixel r' c' ^^ decide (r' = r ∧ c' = c)) := by
  unfold Display.pixel Display.toggle Display.pixel
  by_cases hr : r' = r
  · subst hr
    by_cases hc : c' = c
    · subst hc
      simp
    · have hne : c.val ≠ c'.val := fun e => hc (Fin.ext e.symm)
      simp [hc, hne]
  · have hne : r.val ≠ r'.val := fun e => hr (Fin.ext e.symm)
    simp [hr, hne]

@[simp] theorem pixel_blank (row : Fin 32) (col : Fin 64) : Display.blank.pixel row col = false := by
  simp [Display.pixel, Display.blank]

/-- The display is its pixels. -/
theorem Display.ext_pixel {d e : Display} (h : ∀ row col, d.pixel row col = e.pixel row col) : d = e := by
  apply Vector.ext
  intro r hr
  apply Vector.ext
  intro c hc
  exact h ⟨r, hr⟩ ⟨c, hc⟩

/-- The bit of a sprite row, `k` bits of it from column `px` on, that falls on a column. -/
def rowBit (b : Byte) (px k : Nat) (col : Nat) : Bool :=
  decide (px ≤ col ∧ col < px + k) && b.getLsbD (k - 1 - (col - px))

/-- A sprite row XORs its bits into one row of the grid and reports the lit pixels it meets. -/
theorem drawCols_spec (c : Canvas) (row : Fin 32) (b : Byte) (px k : Nat) :
    (∀ r col, (c.drawCols row b px k).disp.pixel r col =
      (c.disp.pixel r col ^^ (decide (r = row) && rowBit b px k col))) ∧
    ((c.drawCols row b px k).hit = true ↔
      c.hit = true ∨ ∃ col : Fin 64, rowBit b px k col = true ∧ c.disp.pixel row col = true) := by
  induction k generalizing c px with
  | zero =>
    have hz : ∀ col, rowBit b px 0 col = false := by
      intro col
      simp [rowBit]
    simp [Canvas.drawCols, hz]
  | succ k ih =>
    unfold Canvas.drawCols
    split
    · next hpx =>
      -- the first bit of the row, then the others one column further right
      have hsplit : ∀ col : Fin 64, rowBit b px (k + 1) col =
          ((decide (col = ⟨px, hpx⟩) && b.getLsbD k) || rowBit b (px + 1) k col) := by
        intro col
        have hcol : col = ⟨px, hpx⟩ ↔ col.val = px := ⟨fun e => by rw [e], fun e => Fin.ext e⟩
        unfold rowBit
        by_cases h : col.val = px
        · simp [hcol, h]
        · by_cases h2 : px ≤ col.val ∧ col.val < px + (k + 1)
          · have h3 : px + 1 ≤ col.val ∧ col.val < px + 1 + k := by omega
            have h4 : k + 1 - 1 - (col.val - px) = k - 1 - (col.val - (px + 1)) := by omega
            simp only [hcol, h, h2, h3, h4, and_self, decide_true, decide_false, Bool.true_and, Bool.false_and,
              Bool.false_or]
          · have h3 : ¬ (px + 1 ≤ col.val ∧ col.val < px + 1 + k) := by omega
            simp only [hcol, h, h2, h3, decide_false, Bool.false_and, Bool.or_false]
      have hdisj : rowBit b (px + 1) k px = false := by
        simp [rowBit]
      by_cases hb : b.getLsbD k = true
      · obtain ⟨ihp, ihh⟩ := ih (c.plot row ⟨px, hpx⟩) (px + 1)
        rw [if_pos hb]
        refine ⟨fun r col => ?_, ?_⟩
        · rw [ihp, hsplit, hb]
          simp only [Canvas.plot, pixel_toggle]
          by_cases hr : r = row
          · by_cases hc : col = ⟨px, hpx⟩
            · simp [hr, hc, hdisj]
            · simp [hr, hc]
          · simp [hr]
        · rw [ihh]
          simp only [Canvas.plot, pixel_toggle, Bool.or_eq_true]
          constructor
          · rintro ((h | h) | ⟨col, h1, h2⟩)
            · exact .inl h
            · exact .inr ⟨⟨px, hpx⟩, by rw [hsplit]; simp [hb], h⟩
            · refine .inr ⟨col, by rw [hsplit, h1]; simp, ?_⟩
              by_cases hc : col = ⟨px, hpx⟩
              · rw [hc, hdisj] at h1
                exact absurd h1 (by simp)
              · simpa [hc] using h2
          · rintro (h | ⟨col, h1, h2⟩)
            · exact .inl (.inl h)
            · by_cases hc : col = ⟨px, hpx⟩
              · exact .inl (.inr (hc ▸ h2))
              · refine .inr ⟨col, ?_, by simpa [hc] using h2⟩
                rw [hsplit] at h1
                simpa [hc] using h1
      · obtain ⟨ihp, ihh⟩ := ih c (px + 1)
        have hb' : b.getLsbD k = false := by simpa using hb
        rw [if_neg hb]
        refine ⟨fun r col => ?_, ?_⟩
        · rw [ihp, hsplit, hb']
          simp
        · rw [ihh]
          simp [hsplit, hb']
    · next hpx =>
      have hz : ∀ col : Fin 64, rowBit b px (k + 1) col = false := by
        intro col
        have : ¬ (px ≤ col.val ∧ col.val < px + (k + 1)) := by omega
        simp [rowBit, this]
      simp [hz]

/-- The bit of a whole sprite, its rows from row `py` on, that falls on a pixel. -/
def bodyBit (bs : List Byte) (px py row col : Nat) : Bool :=
  decide (py ≤ row ∧ row < py + bs.length) && rowBit (bs.getD (row - py) 0) px 8 col

/-- A sprite XORs its bits into the grid and reports the lit pixels it meets. -/
theorem drawRows_spec (c : Canvas) (px py : Nat) (bs : List Byte) :
    (∀ r col, (c.drawRows px py bs).disp.pixel r col =
      (c.disp.pixel r col ^^ bodyBit bs px py r.val col.val)) ∧
    ((c.drawRows px py bs).hit = true ↔
      c.hit = true ∨ ∃ (r : Fin 32) (col : Fin 64), bodyBit bs px py r.val col.val = true ∧ c.disp.pixel r col = true) := by
  induction bs generalizing c py with
  | nil =>
    have hz : ∀ r col, bodyBit [] px py r col = false := by
      intro r col
      have : ¬ (py ≤ r ∧ r < py + ([] : List Byte).length) := by simp
      simp only [bodyBit, this, decide_false, Bool.false_and]
    simp [Canvas.drawRows, hz]
  | cons b bs ih =>
    unfold Canvas.drawRows
    split
    · next hpy =>
      have hsplit : ∀ (r : Fin 32) (col : Fin 64), bodyBit (b :: bs) px py r.val col.val =
          ((decide (r = ⟨py, hpy⟩) && rowBit b px 8 col.val) || bodyBit bs px (py + 1) r.val col.val) := by
        intro r col
        have hrow : r = ⟨py, hpy⟩ ↔ r.val = py := ⟨fun e => by rw [e], fun e => Fin.ext e⟩
        unfold bodyBit
        by_cases h : r.val = py
        · simp [hrow, h]
        · by_cases h2 : py ≤ r.val ∧ r.val < py + (bs.length + 1)
          · have h3 : py + 1 ≤ r.val ∧ r.val < py + 1 + bs.length := by omega
            have h4 : r.val - py = (r.val - (py + 1)) + 1 := by omega
            simp [hrow, h, h2, h3, h4]
          · have h3 : ¬ (py + 1 ≤ r.val ∧ r.val < py + 1 + bs.length) := by omega
            simp only [List.length_cons, h2, h3, hrow, h, decide_false, Bool.false_and, Bool.or_false]
      have hdisj : ∀ col : Nat, bodyBit bs px (py + 1) py col = false := by
        intro col
        simp [bodyBit]
      obtain ⟨hp, hh⟩ := drawCols_spec c ⟨py, hpy⟩ b px 8
      obtain ⟨ihp, ihh⟩ := ih (c.drawCols ⟨py, hpy⟩ b px 8) (py + 1)
      refine ⟨fun r col => ?_, ?_⟩
      · rw [ihp, hp, hsplit]
        by_cases hr : r = ⟨py, hpy⟩
        · simp [hdisj, hr]
        · simp [hr]
      · rw [ihh, hh]
        constructor
        · rintro ((h | ⟨col, h1, h2⟩) | ⟨r, col, h1, h2⟩)
          · exact .inl h
          · exact .inr ⟨⟨py, hpy⟩, col, by rw [hsplit]; simp [h1], h2⟩
          · refine .inr ⟨r, col, by rw [hsplit, h1]; simp, ?_⟩
            by_cases hr : r = ⟨py, hpy⟩
            · rw [hr, hdisj] at h1
              exact absurd h1 (by simp)
            · rw [hp] at h2
              simpa [hr] using h2
        · rintro (h | ⟨r, col, h1, h2⟩)
          · exact .inl (.inl h)
          · by_cases hr : r = ⟨py, hpy⟩
            · subst hr
              rw [hsplit, hdisj] at h1
              exact .inl (.inr ⟨col, by simpa using h1, h2⟩)
            · refine .inr ⟨r, col, ?_, ?_⟩
              · rw [hsplit] at h1
                simpa [hr] using h1
              · rw [hp]
                simpa [hr] using h2
    · next hpy =>
      have hz : ∀ (r : Fin 32) (col : Nat), bodyBit (b :: bs) px py r.val col = false := by
        intro r col
        have : ¬ (py ≤ r.val ∧ r.val < py + (b :: bs).length) := by omega
        simp only [bodyBit, this, decide_false, Bool.false_and]
      simp [hz]

/-- The sprite read from memory at I is `State.spriteBit`. -/
theorem bodyBit_memReadList (s : State) (x y n : Fin 16) (row : Fin 32) (col : Fin 64) :
    bodyBit (s.memReadList s.I n.val) (s.startCol x) (s.startRow y) row.val col.val = s.spriteBit x y n row col := by
  unfold bodyBit State.spriteBit rowBit
  rw [length_memReadList]
  by_cases h : s.startRow y ≤ row.val ∧ row.val < s.startRow y + n.val
  · have hk : row.val - s.startRow y < (s.memReadList s.I n.val).length := by
      rw [length_memReadList]
      omega
    rw [List.getD_eq_getElem _ _ hk, getElem_memReadList]
    obtain ⟨h1, h2⟩ := h
    simp only [h1, h2, and_self, decide_true, Bool.true_and, true_and]
    rfl
  · have h' : ¬ (s.startRow y ≤ row.val ∧ row.val < s.startRow y + n.val ∧ s.startCol x ≤ col.val ∧
        col.val < s.startCol x + 8) := fun e => h ⟨e.1, e.2.1⟩
    simp only [h, h', decide_false, Bool.false_and]

/-- DRAW in closed form: each pixel XORed with its sprite bit. -/
theorem pixel_drawing (s : State) (x y n : Fin 16) (row : Fin 32) (col : Fin 64) :
    (s.drawing x y n).disp.pixel row col = (s.DISP.pixel row col ^^ s.spriteBit x y n row col) := by
  rw [← bodyBit_memReadList]
  exact (drawRows_spec ⟨s.DISP, false⟩ _ _ _).1 row col

/-- DRAW in closed form: a collision is a lit pixel under a set sprite bit. -/
theorem hit_drawing (s : State) (x y n : Fin 16) : (s.drawing x y n).hit = true ↔ s.spriteHits x y n := by
  refine (drawRows_spec ⟨s.DISP, false⟩ _ _ _).2.trans ?_
  unfold State.spriteHits
  simp only [bodyBit_memReadList, Bool.false_eq_true, false_or]

/-- The sprite depends on Vx, Vy, I and memory only. -/
theorem spriteBit_congr {s t : State} {x y : Fin 16} (hx : t.reg x = s.reg x) (hy : t.reg y = s.reg y) (hI : t.I = s.I)
    (hm : ∀ a, t.memRead a = s.memRead a) (n : Fin 16) (row : Fin 32) (col : Fin 64) :
    t.spriteBit x y n row col = s.spriteBit x y n row col := by
  have hc : t.startCol x = s.startCol x := by rw [State.startCol, hx, State.startCol]
  have hr : t.startRow y = s.startRow y := by rw [State.startRow, hy, State.startRow]
  have hb : ∀ k, t.blockAddr k = s.blockAddr k := fun k => by rw [State.blockAddr, hI, State.blockAddr]
  rw [State.spriteBit, State.spriteBit, hc, hr, hb, hm]

/-- DRAW changes the display and VF, and nothing else. -/
theorem draw_eq (s : State) (x y n : Fin 16) :
    s.draw x y n = { s with V := (s.draw x y n).V, DISP := (s.drawing x y n).disp } := rfl

@[simp] theorem draw_DISP (s : State) (x y n : Fin 16) : (s.draw x y n).DISP = (s.drawing x y n).disp := rfl

theorem reg_draw (s : State) (x y n r : Fin 16) :
    (s.draw x y n).reg r = if r = VF then flagByte (s.drawing x y n).hit else s.reg r := by
  rw [State.draw, reg_setFlag]
  rfl

end Sys2Proof.Machine
end

