-- ==== Sys2Proof/Laws/PerInstr.lean ====
section
/-! SUPPORT. Laws/PerInstr.lean: facts about every instruction as syntax, one lemma per constructor. Family EncodesRow: the
word of the instruction selects the instruction's own row of the opcode map (30_encoding.md R74, R75). -/

namespace Sys2Proof.Laws

theorem wordA_selects (f : BitVec 4) (nnn : Addr12) : wordA f nnn &&& 0xF000#16 = wordA f 0#12 := by
  apply BitVec.eq_of_toNat_eq
  have := nnn.isLt
  rw [and_F000_toNat, wordA_toNat, wordA_toNat, BitVec.toNat_ofNat]
  omega

theorem wordI_selects (f : BitVec 4) (x : Reg) (nn : Byte) : wordI f x nn &&& 0xF000#16 = wordA f 0#12 := by
  apply BitVec.eq_of_toNat_eq
  have := nn.isLt
  rw [and_F000_toNat, wordI_toNat, wordA_toNat, BitVec.toNat_ofNat]
  omega

theorem wordD_selects (f : BitVec 4) (x y n : Fin 16) : wordR f x y n &&& 0xF000#16 = wordA f 0#12 := by
  apply BitVec.eq_of_toNat_eq
  rw [and_F000_toNat, wordR_toNat, wordA_toNat, BitVec.toNat_ofNat]
  omega

theorem wordX_selects (f : BitVec 4) (x : Reg) (nn : Byte) : wordI f x nn &&& 0xF0FF#16 = wordI f 0 nn := by
  apply BitVec.eq_of_toNat_eq
  have := nn.isLt
  rw [and_F0FF_toNat, wordI_toNat, wordI_toNat]
  simp only [Fin.val_zero]
  omega

theorem wordR_selects (f : BitVec 4) (x y n : Fin 16) : wordR f x y n &&& 0xF00F#16 = wordR f 0 0 n := by
  apply BitVec.eq_of_toNat_eq
  rw [and_F00F_toNat, wordR_toNat, wordR_toNat]
  simp only [Fin.val_zero]
  omega

/-- The instruction's word selects its row, and the row is in the map. -/
def EncodesRow.Statement (i : Instr) : Prop :=
  encodeWord i &&& i.row.mask = i.row.pattern ∧ i.row ∈ opcodeRows

theorem EncodesRow.cls : EncodesRow.Statement (.cls) :=
  ⟨rfl, by simp [Instr.row, opcodeRows, opcodeRows0to7, opcodeRows8, opcodeRows9toE, opcodeRowsF]⟩

theorem EncodesRow.ret : EncodesRow.Statement (.ret) :=
  ⟨rfl, by simp [Instr.row, opcodeRows, opcodeRows0to7, opcodeRows8, opcodeRows9toE, opcodeRowsF]⟩

theorem EncodesRow.jp (nnn : Addr12) : EncodesRow.Statement (.jp nnn) :=
  ⟨(wordA_selects _ nnn).trans rfl, by simp [Instr.row, opcodeRows, opcodeRows0to7, opcodeRows8, opcodeRows9toE, opcodeRowsF]⟩

theorem EncodesRow.call (nnn : Addr12) : EncodesRow.Statement (.call nnn) :=
  ⟨(wordA_selects _ nnn).trans rfl, by simp [Instr.row, opcodeRows, opcodeRows0to7, opcodeRows8, opcodeRows9toE, opcodeRowsF]⟩

theorem EncodesRow.sei (x : Reg) (nn : Byte) : EncodesRow.Statement (.sei x nn) :=
  ⟨(wordI_selects _ x nn).trans rfl, by simp [Instr.row, opcodeRows, opcodeRows0to7, opcodeRows8, opcodeRows9toE, opcodeRowsF]⟩

theorem EncodesRow.snei (x : Reg) (nn : Byte) : EncodesRow.Statement (.snei x nn) :=
  ⟨(wordI_selects _ x nn).trans rfl, by simp [Instr.row, opcodeRows, opcodeRows0to7, opcodeRows8, opcodeRows9toE, opcodeRowsF]⟩

theorem EncodesRow.ser (x y : Reg) : EncodesRow.Statement (.ser x y) :=
  ⟨(wordR_selects _ x y _).trans rfl, by simp [Instr.row, opcodeRows, opcodeRows0to7, opcodeRows8, opcodeRows9toE, opcodeRowsF]⟩

theorem EncodesRow.ldi (x : Reg) (nn : Byte) : EncodesRow.Statement (.ldi x nn) :=
  ⟨(wordI_selects _ x nn).trans rfl, by simp [Instr.row, opcodeRows, opcodeRows0to7, opcodeRows8, opcodeRows9toE, opcodeRowsF]⟩

theorem EncodesRow.addi (x : Reg) (nn : Byte) : EncodesRow.Statement (.addi x nn) :=
  ⟨(wordI_selects _ x nn).trans rfl, by simp [Instr.row, opcodeRows, opcodeRows0to7, opcodeRows8, opcodeRows9toE, opcodeRowsF]⟩

theorem EncodesRow.mov (x y : Reg) : EncodesRow.Statement (.mov x y) :=
  ⟨(wordR_selects _ x y _).trans rfl, by simp [Instr.row, opcodeRows, opcodeRows0to7, opcodeRows8, opcodeRows9toE, opcodeRowsF]⟩

theorem EncodesRow.or (x y : Reg) : EncodesRow.Statement (.or x y) :=
  ⟨(wordR_selects _ x y _).trans rfl, by simp [Instr.row, opcodeRows, opcodeRows0to7, opcodeRows8, opcodeRows9toE, opcodeRowsF]⟩

theorem EncodesRow.and (x y : Reg) : EncodesRow.Statement (.and x y) :=
  ⟨(wordR_selects _ x y _).trans rfl, by simp [Instr.row, opcodeRows, opcodeRows0to7, opcodeRows8, opcodeRows9toE, opcodeRowsF]⟩

theorem EncodesRow.xor (x y : Reg) : EncodesRow.Statement (.xor x y) :=
  ⟨(wordR_selects _ x y _).trans rfl, by simp [Instr.row, opcodeRows, opcodeRows0to7, opcodeRows8, opcodeRows9toE, opcodeRowsF]⟩

theorem EncodesRow.add (x y : Reg) : EncodesRow.Statement (.add x y) :=
  ⟨(wordR_selects _ x y _).trans rfl, by simp [Instr.row, opcodeRows, opcodeRows0to7, opcodeRows8, opcodeRows9toE, opcodeRowsF]⟩

theorem EncodesRow.sub (x y : Reg) : EncodesRow.Statement (.sub x y) :=
  ⟨(wordR_selects _ x y _).trans rfl, by simp [Instr.row, opcodeRows, opcodeRows0to7, opcodeRows8, opcodeRows9toE, opcodeRowsF]⟩

theorem EncodesRow.shr (x y : Reg) : EncodesRow.Statement (.shr x y) :=
  ⟨(wordR_selects _ x y _).trans rfl, by simp [Instr.row, opcodeRows, opcodeRows0to7, opcodeRows8, opcodeRows9toE, opcodeRowsF]⟩

theorem EncodesRow.subn (x y : Reg) : EncodesRow.Statement (.subn x y) :=
  ⟨(wordR_selects _ x y _).trans rfl, by simp [Instr.row, opcodeRows, opcodeRows0to7, opcodeRows8, opcodeRows9toE, opcodeRowsF]⟩

theorem EncodesRow.shl (x y : Reg) : EncodesRow.Statement (.shl x y) :=
  ⟨(wordR_selects _ x y _).trans rfl, by simp [Instr.row, opcodeRows, opcodeRows0to7, opcodeRows8, opcodeRows9toE, opcodeRowsF]⟩

theorem EncodesRow.sner (x y : Reg) : EncodesRow.Statement (.sner x y) :=
  ⟨(wordR_selects _ x y _).trans rfl, by simp [Instr.row, opcodeRows, opcodeRows0to7, opcodeRows8, opcodeRows9toE, opcodeRowsF]⟩

theorem EncodesRow.ldidx (nnn : Addr12) : EncodesRow.Statement (.ldidx nnn) :=
  ⟨(wordA_selects _ nnn).trans rfl, by simp [Instr.row, opcodeRows, opcodeRows0to7, opcodeRows8, opcodeRows9toE, opcodeRowsF]⟩

theorem EncodesRow.jpv0 (nnn : Addr12) : EncodesRow.Statement (.jpv0 nnn) :=
  ⟨(wordA_selects _ nnn).trans rfl, by simp [Instr.row, opcodeRows, opcodeRows0to7, opcodeRows8, opcodeRows9toE, opcodeRowsF]⟩

theorem EncodesRow.rnd (x : Reg) (nn : Byte) : EncodesRow.Statement (.rnd x nn) :=
  ⟨(wordI_selects _ x nn).trans rfl, by simp [Instr.row, opcodeRows, opcodeRows0to7, opcodeRows8, opcodeRows9toE, opcodeRowsF]⟩

theorem EncodesRow.drw (x y n : Fin 16) : EncodesRow.Statement (.drw x y n) :=
  ⟨(wordD_selects _ x y n).trans rfl, by simp [Instr.row, opcodeRows, opcodeRows0to7, opcodeRows8, opcodeRows9toE, opcodeRowsF]⟩

theorem EncodesRow.skp (x : Reg) : EncodesRow.Statement (.skp x) :=
  ⟨(wordX_selects _ x _).trans rfl, by simp [Instr.row, opcodeRows, opcodeRows0to7, opcodeRows8, opcodeRows9toE, opcodeRowsF]⟩

theorem EncodesRow.sknp (x : Reg) : EncodesRow.Statement (.sknp x) :=
  ⟨(wordX_selects _ x _).trans rfl, by simp [Instr.row, opcodeRows, opcodeRows0to7, opcodeRows8, opcodeRows9toE, opcodeRowsF]⟩

theorem EncodesRow.lddt (x : Reg) : EncodesRow.Statement (.lddt x) :=
  ⟨(wordX_selects _ x _).trans rfl, by simp [Instr.row, opcodeRows, opcodeRows0to7, opcodeRows8, opcodeRows9toE, opcodeRowsF]⟩

theorem EncodesRow.ldk (x : Reg) : EncodesRow.Statement (.ldk x) :=
  ⟨(wordX_selects _ x _).trans rfl, by simp [Instr.row, opcodeRows, opcodeRows0to7, opcodeRows8, opcodeRows9toE, opcodeRowsF]⟩

theorem EncodesRow.stdt (x : Reg) : EncodesRow.Statement (.stdt x) :=
  ⟨(wordX_selects _ x _).trans rfl, by simp [Instr.row, opcodeRows, opcodeRows0to7, opcodeRows8, opcodeRows9toE, opcodeRowsF]⟩

theorem EncodesRow.stst (x : Reg) : EncodesRow.Statement (.stst x) :=
  ⟨(wordX_selects _ x _).trans rfl, by simp [Instr.row, opcodeRows, opcodeRows0to7, opcodeRows8, opcodeRows9toE, opcodeRowsF]⟩

theorem EncodesRow.addidx (x : Reg) : EncodesRow.Statement (.addidx x) :=
  ⟨(wordX_selects _ x _).trans rfl, by simp [Instr.row, opcodeRows, opcodeRows0to7, opcodeRows8, opcodeRows9toE, opcodeRowsF]⟩

theorem EncodesRow.ldfont (x : Reg) : EncodesRow.Statement (.ldfont x) :=
  ⟨(wordX_selects _ x _).trans rfl, by simp [Instr.row, opcodeRows, opcodeRows0to7, opcodeRows8, opcodeRows9toE, opcodeRowsF]⟩

theorem EncodesRow.bcd (x : Reg) : EncodesRow.Statement (.bcd x) :=
  ⟨(wordX_selects _ x _).trans rfl, by simp [Instr.row, opcodeRows, opcodeRows0to7, opcodeRows8, opcodeRows9toE, opcodeRowsF]⟩

theorem EncodesRow.stm (x : Reg) : EncodesRow.Statement (.stm x) :=
  ⟨(wordX_selects _ x _).trans rfl, by simp [Instr.row, opcodeRows, opcodeRows0to7, opcodeRows8, opcodeRows9toE, opcodeRowsF]⟩

theorem EncodesRow.ldm (x : Reg) : EncodesRow.Statement (.ldm x) :=
  ⟨(wordX_selects _ x _).trans rfl, by simp [Instr.row, opcodeRows, opcodeRows0to7, opcodeRows8, opcodeRows9toE, opcodeRowsF]⟩

/-- Every instruction's word selects its row. -/
theorem EncodesRow.every (i : Instr) : EncodesRow.Statement i :=
  match i with
  | .cls => EncodesRow.cls
  | .ret => EncodesRow.ret
  | .jp nnn => EncodesRow.jp nnn
  | .call nnn => EncodesRow.call nnn
  | .sei x nn => EncodesRow.sei x nn
  | .snei x nn => EncodesRow.snei x nn
  | .ser x y => EncodesRow.ser x y
  | .ldi x nn => EncodesRow.ldi x nn
  | .addi x nn => EncodesRow.addi x nn
  | .mov x y => EncodesRow.mov x y
  | .or x y => EncodesRow.or x y
  | .and x y => EncodesRow.and x y
  | .xor x y => EncodesRow.xor x y
  | .add x y => EncodesRow.add x y
  | .sub x y => EncodesRow.sub x y
  | .shr x y => EncodesRow.shr x y
  | .subn x y => EncodesRow.subn x y
  | .shl x y => EncodesRow.shl x y
  | .sner x y => EncodesRow.sner x y
  | .ldidx nnn => EncodesRow.ldidx nnn
  | .jpv0 nnn => EncodesRow.jpv0 nnn
  | .rnd x nn => EncodesRow.rnd x nn
  | .drw x y n => EncodesRow.drw x y n
  | .skp x => EncodesRow.skp x
  | .sknp x => EncodesRow.sknp x
  | .lddt x => EncodesRow.lddt x
  | .ldk x => EncodesRow.ldk x
  | .stdt x => EncodesRow.stdt x
  | .stst x => EncodesRow.stst x
  | .addidx x => EncodesRow.addidx x
  | .ldfont x => EncodesRow.ldfont x
  | .bcd x => EncodesRow.bcd x
  | .stm x => EncodesRow.stm x
  | .ldm x => EncodesRow.ldm x

end Sys2Proof.Laws
end

