-- ==== Sys2Proof/Laws/Step.lean ====
section
/-! SUPPORT. Laws/Step.lean: what a turn and a step can do, said once: a step is the turn of the scheduled agent; a CORE turn is
one of five cases; an instruction changes only the program's part of the state. -/

namespace Sys2Proof.Machine

/-- A step is the turn of the agent whose turn it is, on the state with that move off the schedule. -/
theorem step_eq (s : State) : step s = s.afterPick.takeTurn s.nextTurn := by
  obtain ⟨_, _, _, _, _, _, _, _, _, _, _, _, _, _, _, _, _, _, _, schedule, _⟩ := s
  cases schedule <;> rfl

theorem afterPick_eq (s : State) : s.afterPick = { s with schedule := s.schedule.tail } := rfl

@[simp] theorem afterPick_fetchWord (s : State) : s.afterPick.fetchWord = s.fetchWord := rfl

/-- A CORE turn at an instruction boundary of a running machine is one cycle. -/
theorem coreTurn_fetch {s : State} (hr : s.RUN = .running) (hp : s.PHASE = .fetch) : s.coreTurn = s.cycle := by
  unfold State.coreTurn
  rw [hr, hp]

/-- A CORE turn inside a held draw draws when frame-ready is set and waits otherwise. -/
theorem coreTurn_drawWait {s : State} (hr : s.RUN = .running) (hp : s.PHASE = .drawWait) :
    s.coreTurn = if s.FRAME_READY then .next s.completeDraw else .next s := by
  unfold State.coreTurn
  rw [hr, hp]

/-- A CORE turn of a stopped machine changes nothing. -/
theorem coreTurn_stopped {s : State} (hr : s.RUN = .stopped) : s.coreTurn = .next s := by
  unfold State.coreTurn
  rw [hr]

theorem cycle_decoded {s : State} {i : Instr} (h : decodeWord s.fetchWord = some i) : s.cycle = exec i s.advancePC := by
  unfold State.cycle
  rw [h]

theorem cycle_unsupported {s : State} (h : decodeWord s.fetchWord = none) :
    s.cycle = .next (s.advancePC.reportUnsupported s.fetchWord) := by
  unfold State.cycle
  rw [h]

/-- A run of one step more takes that step first. -/
theorem run_succ {s t : State} (k : Nat) (h : step s = .next t) :
    Host.Core.run Sys2Proof.core (k + 1) s = Host.Core.run Sys2Proof.core k t := by
  have general : ∀ (M : Host.Core) (a b : M.State), M.step a = .next b → M.run (k + 1) a = M.run k b := by
    intro M a b hab
    simp only [Host.Core.run, hab]
  exact general Sys2Proof.core s t h

/-- Everything a CORE turn can be. -/
theorem coreTurn_cases (s : State) :
    (s.RUN = .stopped ∧ s.coreTurn = .next s) ∨
    (s.RUN = .running ∧ s.PHASE = .fetch ∧ ∃ i, decodeWord s.fetchWord = some i ∧ s.coreTurn = exec i s.advancePC) ∨
    (s.RUN = .running ∧ s.PHASE = .fetch ∧ decodeWord s.fetchWord = none ∧
      s.coreTurn = .next (s.advancePC.reportUnsupported s.fetchWord)) ∨
    (s.RUN = .running ∧ s.PHASE = .drawWait ∧ s.FRAME_READY = true ∧ s.coreTurn = .next s.completeDraw) ∨
    (s.RUN = .running ∧ s.PHASE = .drawWait ∧ s.FRAME_READY = false ∧ s.coreTurn = .next s) := by
  cases hr : s.RUN with
  | stopped => exact .inl ⟨rfl, coreTurn_stopped hr⟩
  | running =>
    cases hp : s.PHASE with
    | fetch =>
      rw [coreTurn_fetch hr hp]
      cases hd : decodeWord s.fetchWord with
      | some i => exact .inr (.inl ⟨rfl, rfl, i, rfl, cycle_decoded hd⟩)
      | none => exact .inr (.inr (.inl ⟨rfl, rfl, rfl, cycle_unsupported hd⟩))
    | drawWait =>
      rw [coreTurn_drawWait hr hp]
      cases hf : s.FRAME_READY with
      | true => exact .inr (.inr (.inr (.inl ⟨rfl, rfl, rfl, rfl⟩)))
      | false => exact .inr (.inr (.inr (.inr ⟨rfl, rfl, rfl, rfl⟩)))

/-- The state `t` differs from `s` at most in the part of the state that instructions write. -/
def ProgramPart (s t : State) : Prop :=
  t = { s with
    V := t.V, PC := t.PC, I := t.I, STACK := t.STACK, DT := t.DT, ST := t.ST, MEM := t.MEM, DISP := t.DISP,
    KEYWAIT := t.KEYWAIT, PHASE := t.PHASE, IR := t.IR, REPORT := t.REPORT, draws := t.draws }

theorem awaitPress_programPart (s : State) (x : Reg) : ProgramPart s (s.awaitPress x) := by
  unfold State.awaitPress
  split <;> rfl

theorem awaitPressRelease_programPart (s : State) (x : Reg) : ProgramPart s (s.awaitPressRelease x) := by
  unfold State.awaitPressRelease
  split
  · split <;> rfl
  · split <;> rfl

/-- An instruction never writes the keys, the mode, the run state, the frame-ready slot, the parameters or the inputs. -/
theorem exec_programPart {i : Instr} {s t : State} (h : exec i s = .next t) : ProgramPart s t := by
  cases i with
  | call nnn =>
    simp only [exec, execCall] at h
    split at h
    · exact absurd h (by simp)
    · obtain rfl := Host.Outcome.next.inj h
      rfl
  | ldidx nnn =>
    simp only [exec, execLdidx] at h
    split at h <;> obtain rfl := Host.Outcome.next.inj h <;> rfl
  | drw x y n =>
    simp only [exec, execDrw] at h
    split at h <;> obtain rfl := Host.Outcome.next.inj h <;> rfl
  | ldk x =>
    simp only [exec, execLdk] at h
    obtain rfl := Host.Outcome.next.inj h
    split
    · exact awaitPressRelease_programPart s x
    · exact awaitPress_programPart s x
  | bcd x =>
    obtain rfl := Host.Outcome.next.inj h
    rw [memWriteList_eq]
    rfl
  | stm x =>
    obtain rfl := Host.Outcome.next.inj h
    rw [postIncrementI_eq, memWriteList_eq]
    rfl
  | ldm x =>
    obtain rfl := Host.Outcome.next.inj h
    rw [postIncrementI_eq, loadRegs_eq]
    rfl
  | sei x nn | snei x nn | skp x | sknp x =>
    obtain rfl := Host.Outcome.next.inj h
    rw [skipIf_eq]
    rfl
  | ser x y | sner x y =>
    obtain rfl := Host.Outcome.next.inj h
    rw [skipIf_eq]
    rfl
  | or x y | and x y | xor x y =>
    obtain rfl := Host.Outcome.next.inj h
    rw [setLogic_eq]
    rfl
  | shr x y | shl x y =>
    obtain rfl := Host.Outcome.next.inj h
    rw [shiftReg_eq, shiftSource_eq]
    rfl
  | cls | ret =>
    obtain rfl := Host.Outcome.next.inj h
    rfl
  | jp nnn | jpv0 nnn =>
    obtain rfl := Host.Outcome.next.inj h
    rfl
  | ldi x nn | addi x nn | rnd x nn =>
    obtain rfl := Host.Outcome.next.inj h
    rfl
  | mov x y | add x y | sub x y | subn x y =>
    obtain rfl := Host.Outcome.next.inj h
    rfl
  | lddt x | stdt x | stst x | addidx x | ldfont x =>
    obtain rfl := Host.Outcome.next.inj h
    rfl

/-- An instruction faults only as a call on a full finite stack, and is never refused. -/
theorem exec_not_next {i : Instr} {s : State} (h : ∀ t, exec i s ≠ .next t) :
    (∃ nnn, i = .call nnn) ∧ s.stackFull = true ∧ exec i s = .fault .stackOverflow := by
  cases i with
  | call nnn =>
    simp only [exec, execCall] at h ⊢
    split at h
    · next hf => simp [hf]
    · exact absurd rfl (h _)
  | ldidx nnn =>
    simp only [exec, execLdidx] at h
    split at h <;> exact absurd rfl (h _)
  | drw x y n =>
    simp only [exec, execDrw] at h
    split at h <;> exact absurd rfl (h _)
  | _ => exact absurd rfl (h _)

theorem stackFull_iff (s : State) : s.stackFull = true ↔ ∃ d, s.cfg.stackDepth = some d ∧ d ≤ s.STACK.length := by
  unfold State.stackFull
  cases h : s.cfg.stackDepth with
  | none => simp
  | some d => simp

end Sys2Proof.Machine
end

