-- ==== Sys2Proof/Tests/Slice0.lean ====
section
/-! SUPPORT. Tests/Slice0.lean: the model's own tests. Expected values are those of spec/95_test_vectors.md (named T<n> or E<n>
there) or worked by hand from the rule named. Then, for every obligation with hypotheses, a witness that they can be met. -/

namespace Sys2Proof.Tests

open Sys2Proof Sys2Proof.Machine

/-! ### Helpers -/

/-- The vectors' start state: after reset in a mode, RUNNING, no scheduled move. -/
def start (mode : Mode) : State := { State.reset with MODE := mode, RUN := .running }

/-- The start state with some registers set. -/
def withRegs (mode : Mode) (rs : List (Reg × Byte)) : State := rs.foldl (fun s p => s.setReg p.1 p.2) (start mode)

/-- One step with a word placed at PC. -/
def run (op : Word) (s : State) : Result := step (s.placeWord op)

/-- The step answers a next state and the check holds of it. -/
def after (r : Result) (check : State → Bool) : Bool :=
  match r with
  | .next t => check t
  | .fault _ => false
  | .refused _ => false

/-- The pixels of a list are lit and, of the rows 0 to 1 and 30 to 31, no others. -/
def lit (t : State) (ps : List (Fin 32 × Fin 64)) : Bool :=
  ([0, 1, 30, 31] : List (Fin 32)).all fun r =>
    (List.finRange 64).all fun c => t.DISP.pixel r c == ps.contains (r, c)

/-! ### WellFormed: the one check, refused and accepted (R76, R130) -/

theorem test_wellFormed_refuses_ldidx_when_unsupported :
    Instr.wellFormed { Config.default with annnPolicy := .unsupported } (.ldidx 0x123) = false := by decide
theorem test_wellFormed_accepts_ldidx_by_default : Instr.wellFormed Config.default (.ldidx 0x123) = true := by decide

/-! ### Decoding, each row by a word written out from R72 and R75 -/

theorem test_decode_family_0 : decodeWord 0x00E0 = some .cls ∧ decodeWord 0x00EE = some .ret := by decide
theorem test_decode_families_1_2 : decodeWord 0x1ABC = some (.jp 0xABC) ∧ decodeWord 0x2ABC = some (.call 0xABC) := by decide
theorem test_decode_skips : decodeWord 0x3F01 = some (.sei 15 0x01) ∧ decodeWord 0x4300 = some (.snei 3 0x00) ∧
    decodeWord 0x5120 = some (.ser 1 2) ∧ decodeWord 0x9120 = some (.sner 1 2) := by decide
theorem test_decode_families_6_7 : decodeWord 0x6A55 = some (.ldi 10 0x55) ∧ decodeWord 0x71FF = some (.addi 1 0xFF) := by
  decide
theorem test_decode_family_8_logic : decodeWord 0x8120 = some (.mov 1 2) ∧ decodeWord 0x8121 = some (.or 1 2) ∧
    decodeWord 0x8122 = some (.and 1 2) ∧ decodeWord 0x8123 = some (.xor 1 2) := by decide
theorem test_decode_family_8_arithmetic : decodeWord 0x8014 = some (.add 0 1) ∧ decodeWord 0x8015 = some (.sub 0 1) ∧
    decodeWord 0x8FE7 = some (.subn 15 14) := by decide
theorem test_decode_family_8_shifts : decodeWord 0x80F6 = some (.shr 0 15) ∧ decodeWord 0x8F1E = some (.shl 15 1) := by decide
theorem test_decode_families_A_B_C : decodeWord 0xA300 = some (.ldidx 0x300) ∧ decodeWord 0xBFFF = some (.jpv0 0xFFF) ∧
    decodeWord 0xC00F = some (.rnd 0 0x0F) := by decide
theorem test_decode_family_D : decodeWord 0xD123 = some (.drw 1 2 3) := by decide
theorem test_decode_family_E : decodeWord 0xE29E = some (.skp 2) ∧ decodeWord 0xE2A1 = some (.sknp 2) := by decide
theorem test_decode_family_F_timers_keys : decodeWord 0xF507 = some (.lddt 5) ∧ decodeWord 0xF50A = some (.ldk 5) ∧
    decodeWord 0xF515 = some (.stdt 5) ∧ decodeWord 0xF518 = some (.stst 5) := by decide
theorem test_decode_family_F_memory : decodeWord 0xF11E = some (.addidx 1) ∧ decodeWord 0xF029 = some (.ldfont 0) ∧
    decodeWord 0xF033 = some (.bcd 0) ∧ decodeWord 0xF355 = some (.stm 3) ∧ decodeWord 0xFF65 = some (.ldm 15) := by decide
/-- T10 to T16: words of no row. -/
theorem test_decode_unsupported :
    ([0x0000, 0x00E1, 0x0FFF, 0x5121, 0x9121, 0x8128, 0x812F, 0xE19F, 0xE000, 0xF10B, 0xF175, 0xFFFF] : List Word).all
      (fun op => (decodeWord op).isNone) = true := by decide
theorem test_encode_bytes : encode (.add 0 1) = [0x80, 0x14] ∧ encode (.jp 0x200) = [0x12, 0x00] ∧
    encode (.drw 15 0 1) = [0xDF, 0x01] ∧ encode (.ldi 10 5) = [0x6A, 0x05] := by decide
theorem test_decode_bytes : decode [0x12, 0x00, 0xFF] = .ok (.jp 0x200, [0xFF]) ∧ decode [0x00] = .error .truncated ∧
    decode [0x00, 0x00] = .error (.unsupported 0) := by decide
theorem test_decodeTableWord : decodeTableWord 16 0x8014 = some (.add 0 1) ∧ decodeTableWord 16 0x5121 = none := by decide

/-! ### The cycle (T1 to T5, T18) and the host's entry -/

/-- T3: the second byte is fetched from 0x000, PC is not reduced. -/
theorem test_fetch_across_the_top :
    after (run 0x602A { start .none with PC := 0x0FFF }) (fun t => t.reg 0 == 0x2A && t.PC == 0x1001) = true := by decide
/-- T4: PC wraps modulo 65536. -/
theorem test_fetch_at_FFFF :
    after (run 0x612A { start .none with PC := 0xFFFF }) (fun t => t.reg 1 == 0x2A && t.PC == 0x0001) = true := by decide
/-- T10. -/
theorem test_unsupported_word_is_reported :
    after (run 0x0000 (start .legacy)) (fun t => t.REPORT == [0x0000] && t.PC == 0x202) = true := by decide
theorem test_withFetchWord_runs_the_word :
    after (step (State.reset.withFetchWord 16 0x6A05)) (fun t => t.reg 10 == 5 && t.PC == 0x202) = true := by decide
/-- R202: STOPPED, no step of the CORE changes anything. -/
theorem test_core_stopped_after_reset : after (step State.reset) (fun t => t == State.reset) = true := by decide

/-! ### Control transfer -/

/-- T20. -/
theorem test_ret : after (run 0x00EE { start .none with STACK := [0x0312, 0x0208] })
    (fun t => t.PC == 0x0312 && t.STACK == [0x0208]) = true := by decide
/-- T21. -/
theorem test_ret_empty_stack : after (run 0x00EE (start .none)) (fun t => t.PC == 0 && t.STACK == [] && t.REPORT == []) = true := by
  decide
/-- T23. -/
theorem test_jp : after (run 0x1FFF (start .none)) (fun t => t.PC == 0x0FFF) = true := by decide
/-- T25. -/
theorem test_call : after (run 0x2ABC { start .none with PC := 0x0FFE })
    (fun t => t.STACK == [0x1000] && t.PC == 0x0ABC) = true := by decide
/-- T26. -/
theorem test_call_wraps : after (run 0x2ABC { start .none with PC := 0xFFFE })
    (fun t => t.STACK == [0x0000] && t.PC == 0x0ABC) = true := by decide
/-- T29. -/
theorem test_sei_taken : after (run 0x3F01 (withRegs .none [(15, 1)])) (fun t => t.PC == 0x204) = true := by decide
/-- T28. -/
theorem test_sei_not_taken : after (run 0x3300 (withRegs .none [(3, 1)])) (fun t => t.PC == 0x202) = true := by decide
/-- T31. -/
theorem test_snei_taken : after (run 0x4300 (withRegs .none [(3, 1)])) (fun t => t.PC == 0x204) = true := by decide
/-- T32. -/
theorem test_snei_not_taken : after (run 0x4300 (start .none)) (fun t => t.PC == 0x202) = true := by decide
/-- T33. -/
theorem test_ser_taken : after (run 0x5120 (withRegs .none [(1, 7), (2, 7)])) (fun t => t.PC == 0x204) = true := by decide
/-- T34. -/
theorem test_ser_not_taken : after (run 0x5120 (withRegs .none [(1, 7), (2, 8)])) (fun t => t.PC == 0x202) = true := by decide
/-- T36. -/
theorem test_sner_taken : after (run 0x9120 (withRegs .none [(1, 7), (2, 8)])) (fun t => t.PC == 0x204) = true := by decide
/-- T37. -/
theorem test_sner_same_register : after (run 0x9440 (start .none)) (fun t => t.PC == 0x202) = true := by decide
/-- T39. -/
theorem test_jpv0 : after (run 0xBFFF (withRegs .none [(0, 0xFF)])) (fun t => t.PC == 0x10FE) = true := by decide

/-! ### Load, arithmetic, logic, shift, random -/

/-- T57. -/
theorem test_ldi : after (run 0x6FAB (start .none)) (fun t => t.reg 15 == 0xAB) = true := by decide
/-- T56. -/
theorem test_addi_wraps : after (run 0x7102 (withRegs .none [(1, 0xFF)])) (fun t => t.reg 1 == 1 && t.reg 15 == 0) = true := by
  decide
/-- T58. -/
theorem test_mov : after (run 0x8120 (withRegs .none [(2, 0x33)])) (fun t => t.reg 1 == 0x33) = true := by decide
/-- T59. -/
theorem test_or_none : after (run 0x8121 (withRegs .none [(1, 0x0C), (2, 0x0A), (15, 1)]))
    (fun t => t.reg 1 == 0x0E && t.reg 15 == 1) = true := by decide
/-- T60. -/
theorem test_or_legacy : after (run 0x8121 (withRegs .legacy [(1, 0x0C), (2, 0x0A), (15, 1)]))
    (fun t => t.reg 1 == 0x0E && t.reg 15 == 0) = true := by decide
/-- T61. -/
theorem test_and_none : after (run 0x8122 (withRegs .none [(1, 0x0C), (2, 0x0A), (15, 1)]))
    (fun t => t.reg 1 == 0x08 && t.reg 15 == 1) = true := by decide
/-- T61. -/
theorem test_and_legacy : after (run 0x8122 (withRegs .legacy [(1, 0x0C), (2, 0x0A), (15, 1)]))
    (fun t => t.reg 1 == 0x08 && t.reg 15 == 0) = true := by decide
/-- T62. -/
theorem test_xor_none : after (run 0x8123 (withRegs .none [(1, 0x0C), (2, 0x0A), (15, 1)]))
    (fun t => t.reg 1 == 0x06 && t.reg 15 == 1) = true := by decide
/-- T62. -/
theorem test_xor_legacy : after (run 0x8123 (withRegs .legacy [(1, 0x0C), (2, 0x0A), (15, 1)]))
    (fun t => t.reg 1 == 0x06 && t.reg 15 == 0) = true := by decide
/-- T42. -/
theorem test_add_256 : after (run 0x8014 (withRegs .none [(0, 0x80), (1, 0x80)]))
    (fun t => t.reg 0 == 0 && t.reg 15 == 1) = true := by decide
/-- T45. -/
theorem test_add_into_VF : after (run 0x8FE4 (withRegs .none [(15, 1), (14, 2)]))
    (fun t => t.reg 15 == 0 && t.reg 14 == 2) = true := by decide
/-- T47. -/
theorem test_sub_borrow : after (run 0x8015 (withRegs .none [(0, 5), (1, 7)]))
    (fun t => t.reg 0 == 0xFE && t.reg 15 == 0) = true := by decide
/-- T49. -/
theorem test_sub_equal : after (run 0x8005 (withRegs .none [(0, 9)])) (fun t => t.reg 0 == 0 && t.reg 15 == 1) = true := by
  decide
/-- T51. -/
theorem test_subn : after (run 0x8017 (withRegs .none [(0, 5), (1, 7)])) (fun t => t.reg 0 == 2 && t.reg 15 == 1) = true := by
  decide
/-- T52. -/
theorem test_subn_borrow : after (run 0x8017 (withRegs .none [(0, 7), (1, 5)]))
    (fun t => t.reg 0 == 0xFE && t.reg 15 == 0) = true := by decide
/-- T67, the document's example E8. -/
theorem test_shr_legacy : after (run 0x8016 (withRegs .legacy [(0, 0x0F), (1, 0x03)]))
    (fun t => t.reg 0 == 1 && t.reg 15 == 1 && t.reg 1 == 3) = true := by decide
/-- T71. -/
theorem test_shr_none_y_VF : after (run 0x80F6 (withRegs .none [(0, 8), (15, 3)]))
    (fun t => t.reg 0 == 4 && t.reg 15 == 0) = true := by decide
/-- T73. -/
theorem test_shl_legacy : after (run 0x801E (withRegs .legacy [(0, 0x81), (1, 0x40)]))
    (fun t => t.reg 0 == 0x80 && t.reg 15 == 0) = true := by decide
/-- T74. -/
theorem test_shl_of_VF : after (run 0x8F1E (withRegs .none [(15, 0x81), (1, 0xC0)])) (fun t => t.reg 15 == 2) = true := by decide
/-- T77, with `RAND_SET` the one byte 0xA7. -/
theorem test_rnd_masks :
    execRnd 0 0x0F { start .none with cfg := { Config.default with randSet := .only 0xA7 [] } } =
      .next (State.drawn (State.setReg { start .none with cfg := { Config.default with randSet := .only 0xA7 [] } } 0 0x07)) := by
  simp [execRnd, State.randomByte, Nat.mod_one]
theorem test_rnd_goes_on : after (run 0xC0FF (start .none)) (fun t => t.PC == 0x202 && t.reg 1 == 0 && t.draws == 1) = true := by
  decide

/-! ### Index register and memory -/

/-- T81. -/
theorem test_ldidx : after (run 0xAFFF (start .none)) (fun t => t.I == 0x0FFF && t.REPORT == []) = true := by decide
/-- T17. -/
theorem test_ldidx_unsupported :
    after (run 0xA123 { start .none with cfg := { Config.default with annnPolicy := .unsupported } })
      (fun t => t.I == 0 && t.REPORT == [0xA123] && t.PC == 0x202) = true := by decide
/-- T83. -/
theorem test_addidx_wraps : after (run 0xF11E { withRegs .none [(1, 2)] with I := 0xFFFF })
    (fun t => t.I == 1 && t.reg 15 == 0) = true := by decide
/-- T86. -/
theorem test_ldfont_no_mask : after (run 0xF029 (withRegs .none [(0, 0xFF)])) (fun t => t.I == 0x054B) = true := by decide
/-- T87. -/
theorem test_bcd : after (run 0xF033 { withRegs .none [(0, 254)] with I := 0x300 })
    (fun t => t.memRead 0x300 == 2 && t.memRead 0x301 == 5 && t.memRead 0x302 == 4 && t.I == 0x300) = true := by decide
/-- T89. -/
theorem test_bcd_wraps : after (run 0xF033 { withRegs .none [(0, 123)] with I := 0x0FFF })
    (fun t => t.memRead 0xFFF == 1 && t.memRead 0 == 2 && t.memRead 1 == 3) = true := by decide
/-- T92, NONE. -/
theorem test_stm_none : after (run 0xF355 { withRegs .none [(0, 0xA1), (1, 0xA2), (2, 0xA3), (3, 0xA4)] with I := 0x0FFE })
    (fun t => t.memRead 0xFFE == 0xA1 && t.memRead 0xFFF == 0xA2 && t.memRead 0 == 0xA3 && t.memRead 1 == 0xA4 &&
      t.I == 0x0FFE) = true := by decide
/-- T93, LEGACY: I wraps modulo 65536. -/
theorem test_stm_legacy : after (run 0xF055 { withRegs .legacy [(0, 0x77)] with I := 0xFFFF })
    (fun t => t.memRead 0xFFF == 0x77 && t.I == 0) = true := by decide
/-- T95, LEGACY. -/
theorem test_ldm_legacy : after (run 0xF165 (State.memWriteList { start .legacy with I := 0x1001 } 1 [0xAB, 0xCD]))
    (fun t => t.reg 0 == 0xAB && t.reg 1 == 0xCD && t.reg 2 == 0 && t.I == 0x1003) = true := by decide
/-- T84 and R26: the font is what memory holds after reset; Fx65 of glyph A. -/
theorem test_ldm_none_reads_font : after (run 0xF165 { start .none with I := 0x82 })
    (fun t => t.reg 0 == 0xF0 && t.reg 1 == 0x90 && t.I == 0x82) = true := by decide

/-! ### Display -/

/-- T111. -/
theorem test_cls : after (run 0x00E0 { start .legacy with DISP := Display.blank.toggle 1 3 }) (fun t => lit t []) = true := by decide
/-- T102 and T110's clipping, on one row: start 67, 33 wraps to column 3, row 1. -/
theorem test_drw_start_wraps :
    after (run 0xD011 (State.memWriteList { withRegs .none [(0, 67), (1, 33)] with I := 0x300 } 0x300 [0x80]))
      (fun t => lit t [(1, 3)] && t.reg 15 == 0) = true := by decide
/-- T106: collision. -/
theorem test_drw_collision :
    after (run 0xD011 (State.memWriteList { start .none with I := 0x300, DISP := Display.blank.toggle 0 1 } 0x300 [0xC0]))
      (fun t => lit t [(0, 0)] && t.reg 15 == 1) = true := by decide
/-- T100: right clipping. -/
theorem test_draw_clips_right :
    lit ((State.memWriteList { withRegs .none [(0, 60)] with I := 0x300 } 0x300 [0xFF]).draw 0 1 1)
      [(0, 60), (0, 61), (0, 62), (0, 63)] = true := by decide
/-- T105: bottom clipping. -/
theorem test_draw_clips_bottom :
    lit ((State.memWriteList { withRegs .none [(1, 30)] with I := 0x300 } 0x300 [0x80, 0x80, 0x80]).draw 0 1 3)
      [(30, 0), (31, 0)] = true := by decide
/-- T112, step 1. -/
theorem test_drw_legacy_is_held : after (run 0xD011 { start .legacy with I := 0x300 })
    (fun t => t.PC == 0x202 && t.PHASE == .drawWait && t.IR == 0xD011 && lit t []) = true := by decide
/-- T112, step 2. -/
theorem test_held_draw_completes :
    after (step (State.memWriteList
        { start .legacy with I := 0x300, PHASE := .drawWait, IR := 0xD011, FRAME_READY := true } 0x300 [0x80]))
      (fun t => lit t [(0, 0)] && !t.FRAME_READY && t.PHASE == .fetch && t.PC == 0x200) = true := by decide

/-! ### Keys and timers -/

/-- T122. -/
theorem test_skp : after (run 0xE29E ((withRegs .none [(2, 0x1A)]).setKey 10 true)) (fun t => t.PC == 0x204) = true := by decide
/-- T121. -/
theorem test_skp_released : after (run 0xE29E (withRegs .none [(2, 5)])) (fun t => t.PC == 0x202) = true := by decide
/-- T123. -/
theorem test_sknp : after (run 0xE2A1 ((withRegs .none [(2, 0x1A)]).setKey 10 true)) (fun t => t.PC == 0x202) = true := by decide
/-- T124. -/
theorem test_sknp_released : after (run 0xE2A1 (start .none)) (fun t => t.PC == 0x204) = true := by decide
/-- T126. -/
theorem test_ldk_takes_lowest : after (run 0xF50A (((start .none).setKey 9 true).setKey 3 true))
    (fun t => t.reg 5 == 3 && t.PC == 0x202) = true := by decide
/-- T127, poll 5: the latched key is released while another is pressed. -/
theorem test_ldk_legacy_release : after (run 0xF50A (State.setKey { start .legacy with KEYWAIT := some 9 } 3 true))
    (fun t => t.reg 5 == 9 && t.PC == 0x202 && t.KEYWAIT == none) = true := by decide
/-- T128. -/
theorem test_lddt : after (run 0xF507 { start .none with DT := 0x2A }) (fun t => t.reg 5 == 0x2A) = true := by decide
/-- T129. -/
theorem test_stdt : after (run 0xF515 (withRegs .none [(5, 0x3C)])) (fun t => t.DT == 60 && t.ST == 0) = true := by decide
/-- T130. -/
theorem test_stst : after (run 0xF518 (withRegs .none [(5, 0x10)])) (fun t => t.ST == 16 && t.DT == 0) = true := by decide
/-- T131, the first tick. -/
theorem test_tick : after (step { start .none with DT := 2, ST := 0, schedule := [.timer] })
    (fun t => t.DT == 1 && t.ST == 0) = true := by decide
/-- T133. -/
theorem test_no_tick_while_stopped : after (step { State.reset with DT := 7, schedule := [.timer] })
    (fun t => t.DT == 7) = true := by decide

/-! ### The other agents and the lifecycle -/

/-- T114. -/
theorem test_publish_does_not_count : after (step { start .legacy with FRAME_READY := true, schedule := [.publishFrame] })
    (fun t => t.FRAME_READY) = true := by decide
/-- R178. -/
theorem test_snapshot_is_the_display : (start .none).snapshotDisplay = Display.blank := by decide
/-- R179: an index above 15 changes nothing. -/
theorem test_setKey_out_of_range : (start .none).setKey 16 true = start .none := by decide
/-- T140. -/
theorem test_reset_of_legacy : after (step { State.reset with DT := 9, PC := 3, schedule := [.host], hostOps := [.reset .legacy] })
    (fun t => t == { State.reset with MODE := .legacy }) = true := by decide
/-- T141. -/
theorem test_loadRom : after (step { State.reset with schedule := [.host], hostOps := [.loadRom [0x12, 0x00]] })
    (fun t => t.MEM == [(0x200, 0x12)] && t.PC == 0x200) = true := by decide
/-- T147. -/
theorem test_reset_while_running :
    (match step { start .none with schedule := [.host], hostOps := [.reset .none] } with
      | .refused r => decide (r = .resetWhileRunning)
      | .next _ => false
      | .fault _ => false) = true := by decide
/-- R4, D18. -/
theorem test_mode_port : Mode.ofPort (Mode.portCode .extendedA) = .extendedA ∧ Mode.portCode .legacy = 1 := by decide
theorem test_font_rows : Config.default.resetByte 0x50 = 0xF0 ∧ Config.default.resetByte 0x73 = 0xF0 ∧
    Config.default.resetByte 0x9F = 0x80 ∧ Config.default.resetByte 0xA0 = 0 := by decide
/-- R26: writing the byte an unlisted address reads as leaves nothing listed. -/
theorem test_write_of_reset_byte_unlists : ((start .none).memWriteList 0x300 [5]).memWrite 0x1300 0 = start .none := by decide

/-! ### Witnesses: the hypotheses of each obligation can be met, clause by clause where there are several -/

/-- A block with a stack of finite depth. -/
def withDepth (mode : Mode) (d : Nat) (stack : List Word) : State :=
  { start mode with cfg := { Config.default with stackDepth := some d }, STACK := stack }

theorem witness_EncodeOfDecodeIsTheWord : ∃ op i, decodeWord op = some i := ⟨0xD123, .drw 1 2 3, by decide⟩
theorem witness_DecodingIsTheTableLookup :
    (∃ r ∈ opcodeRows, r.selects 0x8F1E = true) ∧ decodeWord 0x8F1E = some (.shl 15 1) := by decide
theorem witness_DecodingIsTheTableLookup_two_rows :
    ∃ (op : Word) (r q : OpcodeRow), r ∈ opcodeRows ∧ q ∈ opcodeRows ∧ r.selects op = true ∧ q.selects op = true :=
  ⟨0xFF65, ⟨"LDM", 0xF0FF, 0xF065⟩, ⟨"LDM", 0xF0FF, 0xF065⟩, by decide, by decide, by decide, by decide⟩
theorem witness_UnsupportedWordsByFamily :
    (fieldFamily 0x0000 = 0x0 ∧ (0x0000 : Word) ≠ 0x00E0) ∧ (fieldFamily 0x5121 = 0x5 ∧ fieldN 0x5121 ≠ 0) ∧
    (fieldFamily 0x812F = 0x8 ∧ fieldN 0x812F = 0xF) ∧ (fieldFamily 0x912F = 0x9 ∧ fieldN 0x912F ≠ 0) ∧
    (fieldFamily 0xE19F = 0xE ∧ fieldNN 0xE19F = 0x9F) ∧ (fieldFamily 0xFFFF = 0xF ∧ fieldNN 0xFFFF = 0xFF) := by decide
theorem witness_StepRunsTheDecodedInstruction :
    ∃ (s : State) (i : Instr), s.RUN = .running ∧ s.PHASE = .fetch ∧ s.nextTurn = .core ∧ decodeWord s.fetchWord = some i :=
  ⟨(start .none).placeWord 0x8014, .add 0 1, by decide, by decide, by decide, by decide⟩
theorem witness_StepRunsTheDecodedInstruction_scheduled :
    ∃ (s : State) (i : Instr), s.RUN = .running ∧ s.PHASE = .fetch ∧ s.nextTurn = .core ∧ s.schedule ≠ [] ∧
      decodeWord s.fetchWord = some i :=
  ⟨{ (start .legacy).placeWord 0xF00A with schedule := [.core, .timer] }, .ldk 0, by decide, by decide, by decide, by decide,
    by decide⟩
theorem witness_ReadAfterWrite :
    ((0x0FFF : Word).toNat % 4096 = (0xFFFF : Word).toNat % 4096) ∧
    ((0x0FFF : Word).toNat % 4096 ≠ (0x1000 : Word).toNat % 4096) := by decide
theorem witness_CanonicalMemoriesThatReadAlikeAreEqual :
    ∃ (c : Config) (m n : Memory), Memory.wf c m ∧ Memory.wf c n ∧ (∀ a, a < 4096 → Memory.read c m a = Memory.read c n a) ∧
      m ≠ [] :=
  ⟨Config.default, [(0x50, 1), (0xFFF, 2)], [(0x50, 1), (0xFFF, 2)], by decide, by decide, fun _ _ => rfl, by decide⟩
theorem witness_UnsupportedWordIsReportedAndSkipped :
    ∃ s : State, s.RUN = .running ∧ s.PHASE = .fetch ∧ s.nextTurn = .core ∧ decodeWord s.fetchWord = none :=
  ⟨start .none, by decide, by decide, by decide, by decide⟩
theorem witness_CallPushesReturnAddress_unbounded :
    ∃ s : State, s.cfg.stackDepth = none ∧ ∀ d, s.cfg.stackDepth = some d → s.STACK.length < d :=
  ⟨start .none, rfl, fun _ h => nomatch h⟩
theorem witness_CallPushesReturnAddress_last_free_entry :
    ∃ s : State, s.cfg.stackDepth = some 2 ∧ ∀ d, s.cfg.stackDepth = some d → s.STACK.length < d :=
  ⟨withDepth .none 2 [0x202], rfl, fun d h => by
    obtain rfl : 2 = d := Option.some.inj h
    decide⟩
theorem witness_CallOnFullStackFaults :
    ∃ (s : State) (d : Nat), s.cfg.stackDepth = some d ∧ d ≤ s.STACK.length :=
  ⟨withDepth .none 1 [0x202], 1, rfl, by decide⟩
theorem witness_ReturnPopsIntoPC :
    (∃ (s : State) (a : Word) (rest : List Word), s.STACK = a :: rest) ∧ (∃ s : State, s.STACK = []) :=
  ⟨⟨{ start .none with STACK := [0x0312, 0x0208] }, 0x0312, [0x0208], rfl⟩, ⟨start .none, rfl⟩⟩
theorem witness_ReturnUndoesCall :
    ∃ (s t u : State) (nnn : Addr12), exec (.call nnn) s = .next t ∧ u.STACK = t.STACK :=
  ⟨start .none, _, { start .none with STACK := [0x0200] }, 0xABC, rfl, rfl⟩
theorem witness_RegisterSkips :
    (∃ (s : State) (x : Reg) (nn : Byte), s.reg x = nn) ∧ (∃ (s : State) (x : Reg) (nn : Byte), s.reg x ≠ nn) ∧
    (∃ (s : State) (x y : Reg), s.reg x = s.reg y) ∧ (∃ (s : State) (x y : Reg), s.reg x ≠ s.reg y) :=
  ⟨⟨start .none, 15, 0, by decide⟩, ⟨start .none, 15, 0xFF, by decide⟩, ⟨start .none, 0, 15, by decide⟩,
    ⟨withRegs .none [(0, 1)], 0, 15, by decide⟩⟩
theorem witness_LogicOperations :
    (∃ s : State, s.MODE = .legacy) ∧ (∃ (s : State) (x : Reg), s.MODE ≠ .legacy ∧ x ≠ VF) ∧
    (∃ (s : State) (x : Reg), s.MODE ≠ .legacy ∧ x = VF) :=
  ⟨⟨start .legacy, rfl⟩, ⟨start .none, 14, by decide, by decide⟩, ⟨start .extendedB, 15, by decide, rfl⟩⟩
theorem witness_AddWithCarryOut :
    (∃ (s : State) (x y : Reg), x ≠ VF ∧ (s.reg x).toNat + (s.reg y).toNat = 256) ∧
    (∃ (s : State) (x y : Reg), x = VF ∧ (s.reg x).toNat + (s.reg y).toNat = 255) :=
  ⟨⟨withRegs .none [(0, 0xFF), (1, 1)], 0, 1, by decide, by decide⟩, ⟨withRegs .none [(15, 0xFF)], 15, 1, rfl, by decide⟩⟩
theorem witness_SubtractWithNoBorrowFlag :
    (∃ (s : State) (x y : Reg), (s.reg y).toNat = (s.reg x).toNat) ∧
    (∃ (s : State) (x y : Reg), (s.reg y).toNat = (s.reg x).toNat + 1) :=
  ⟨⟨start .none, 0, 1, by decide⟩, ⟨withRegs .none [(1, 1)], 0, 1, by decide⟩⟩
theorem witness_ShiftRight_and_ShiftLeft_legacy :
    ∃ (s : State) (x y : Reg) (v : Byte), s.MODE = .legacy ∧ (s.MODE = .legacy → v = s.reg y) ∧
      (s.MODE ≠ .legacy → v = s.reg x) ∧ x ≠ VF :=
  ⟨withRegs .legacy [(0, 0x0F), (1, 0x03)], 0, 1, 0x03, rfl, fun _ => by decide, fun h => absurd rfl h, by decide⟩
theorem witness_ShiftRight_and_ShiftLeft_other :
    ∃ (s : State) (x y : Reg) (v : Byte), s.MODE ≠ .legacy ∧ (s.MODE = .legacy → v = s.reg y) ∧
      (s.MODE ≠ .legacy → v = s.reg x) ∧ x = VF :=
  ⟨withRegs .extendedA [(15, 0x81)], 15, 1, 0x81, by decide, fun h => absurd h (by decide), fun _ => by decide, rfl⟩
theorem witness_LoadIndexByPolicy :
    (∃ s : State, s.cfg.annnPolicy = .loadIndex) ∧ (∃ s : State, s.cfg.annnPolicy = .unsupported) :=
  ⟨⟨start .none, rfl⟩, ⟨{ start .none with cfg := { Config.default with annnPolicy := .unsupported } }, rfl⟩⟩
theorem witness_register_blocks :
    (∃ (s : State) (x i : Reg), i ≤ x ∧ s.MODE = .legacy) ∧ (∃ (s : State) (x i : Reg), x < i ∧ s.MODE ≠ .legacy) :=
  ⟨⟨start .legacy, 15, 15, by decide, rfl⟩, ⟨start .none, 14, 15, by decide, by decide⟩⟩
theorem witness_BytesOutside :
    ∃ (s : State) (b : Word), s.I = 0x0FFE ∧ ∀ k, k < 4 → memIndex b ≠ memIndex (s.I + BitVec.ofNat 16 k) :=
  ⟨{ start .none with I := 0x0FFE }, 0x0002, rfl, by decide⟩
/-- Two registers to store at 0x300 in LEGACY mode. -/
def stored : State := { withRegs .legacy [(0, 0x11), (1, 0x22)] with I := 0x300 }
theorem witness_StoreThenLoadRestoresRegisters :
    ∃ (s t u : State) (x : Reg), exec (.stm x) s = .next t ∧ u.I = s.I ∧ ∀ a, u.memRead a = t.memRead a :=
  ⟨stored, stored.memWriteList 0x300 [0x11, 0x22] |>.setI 0x302, stored.memWriteList 0x300 [0x11, 0x22] |>.setI 0x300, 1, rfl, rfl,
    fun _ => rfl⟩
theorem witness_DrawSpriteOutsideLegacy : ∃ s : State, s.MODE ≠ .legacy := ⟨start .none, by decide⟩
theorem witness_DrawSpriteOutsideLegacy_hit :
    ∃ (s : State) (x y n : Fin 16), s.MODE ≠ .legacy ∧ s.spriteHits x y n :=
  ⟨State.memWriteList { start .none with I := 0x300, DISP := Display.blank.toggle 0 1 } 0x300 [0xC0], 0, 1, 1, by decide, 0, 1,
    by decide, by decide⟩
theorem witness_DrawSpriteOutsideLegacy_no_hit :
    ∃ (s : State) (x y n : Fin 16), s.MODE ≠ .legacy ∧ ¬ s.spriteHits x y n :=
  ⟨start .none, 0, 1, 0, by decide, by
    rintro ⟨row, col, hb, -⟩
    simp only [State.spriteBit, Bool.and_eq_true, decide_eq_true_eq] at hb
    have : (0 : Fin 16).val = 0 := rfl
    omega⟩
theorem witness_LegacyDrawIsHeld : ∃ s : State, s.MODE = .legacy := ⟨start .legacy, rfl⟩
/-- A LEGACY draw held in DRAW_WAIT. -/
def held (ready : Bool) : State :=
  { start .legacy with I := 0x300, PC := 0x202, PHASE := .drawWait, IR := 0xD011, FRAME_READY := ready }
theorem witness_HeldDrawCompletesOnFrameReady :
    (∃ s : State, s.RUN = .running ∧ s.PHASE = .drawWait ∧ s.FRAME_READY = true) ∧
    (∃ s : State, s.RUN = .running ∧ s.PHASE = .drawWait ∧ s.FRAME_READY = false) :=
  ⟨⟨held true, rfl, rfl, rfl⟩, ⟨held false, rfl, rfl, rfl⟩⟩
theorem witness_DrawingTwiceRestoresDisplay :
    ∃ (s t : State) (x y n : Fin 16), s.MODE ≠ .legacy ∧ x ≠ VF ∧ y ≠ VF ∧ exec (.drw x y n) s = .next t :=
  ⟨start .none, (start .none).draw 0 1 5, 0, 1, 5, by decide, by decide, by decide, rfl⟩
theorem witness_HeldDrawWaitsForPublish :
    (∃ (s t : State) (turn : Turn), s.RUN = .running ∧ s.PHASE = .drawWait ∧ s.FRAME_READY = false ∧ turn = .publishFrame ∧
      s.takeTurn turn = .next t) ∧
    (∃ (s t : State) (turn : Turn), s.RUN = .running ∧ s.PHASE = .drawWait ∧ s.FRAME_READY = false ∧ turn = .host ∧
      s.hostOps = [.stop] ∧ s.takeTurn turn = .next t) :=
  ⟨⟨held false, _, .publishFrame, rfl, rfl, rfl, rfl, rfl⟩,
    ⟨{ held false with hostOps := [.stop] }, _, .host, rfl, rfl, rfl, rfl, rfl, rfl⟩⟩
theorem witness_KeySkips :
    (∃ (s : State) (x : Reg) (k : Key), k.val = (s.reg x).toNat % 16 ∧ s.keyDown k = true) ∧
    (∃ (s : State) (x : Reg) (k : Key), k.val = (s.reg x).toNat % 16 ∧ s.keyDown k = false) :=
  ⟨⟨(withRegs .none [(2, 0xFF)]).setKey 15 true, 2, 15, by decide, by decide⟩, ⟨start .none, 2, 0, by decide, by decide⟩⟩
theorem witness_AwaitKeyOutsideLegacy :
    (∃ s : State, s.MODE ≠ .legacy ∧ ∀ k, s.keyDown k = false) ∧ (∃ s : State, s.MODE ≠ .legacy ∧ ∃ k, s.keyDown k = true) :=
  ⟨⟨start .none, by decide, by decide⟩, ⟨(start .none).setKey 15 true, by decide, 15, by decide⟩⟩
theorem witness_AwaitKeyInLegacy :
    (∃ s : State, s.MODE = .legacy ∧ s.KEYWAIT = none ∧ ∀ k, s.keyDown k = false) ∧
    (∃ s : State, s.MODE = .legacy ∧ s.KEYWAIT = none ∧ ∃ k, s.keyDown k = true) ∧
    (∃ (s : State) (k : Key), s.MODE = .legacy ∧ s.KEYWAIT = some k ∧ s.keyDown k = true) ∧
    (∃ (s : State) (k : Key), s.MODE = .legacy ∧ s.KEYWAIT = some k ∧ s.keyDown k = false) :=
  ⟨⟨start .legacy, rfl, rfl, by decide⟩, ⟨(start .legacy).setKey 0 true, rfl, rfl, 0, by decide⟩,
    ⟨State.setKey { start .legacy with KEYWAIT := some 9 } 9 true, 9, rfl, rfl, by decide⟩,
    ⟨{ start .legacy with KEYWAIT := some 9 }, 9, rfl, rfl, by decide⟩⟩
theorem witness_TickDecrementsBothTimers :
    (∃ s : State, s.nextTurn = .timer ∧ s.RUN = .running ∧ s.DT = 0 ∧ s.ST = 255) ∧
    (∃ s : State, s.nextTurn = .timer ∧ s.RUN = .stopped) :=
  ⟨⟨{ start .none with ST := 255, schedule := [.timer] }, rfl, rfl, rfl, rfl⟩,
    ⟨{ State.reset with schedule := [.timer] }, rfl, rfl⟩⟩
theorem witness_TimersCountDownToZero :
    ∃ (k : Nat) (s : State) (rest : List Turn), s.RUN = .running ∧ s.schedule = List.replicate k .timer ++ rest ∧
      s.DT.toNat < k :=
  ⟨4, { start .none with DT := 2, ST := 1, schedule := [.timer, .timer, .timer, .timer, .core] }, [.core], rfl, rfl, by decide⟩
theorem witness_RefresherMoves : (∃ s : State, s.nextTurn = .publishFrame) ∧ (∃ s : State, s.nextTurn = .snapshotDisplay) :=
  ⟨⟨{ State.reset with schedule := [.publishFrame] }, rfl⟩, ⟨{ State.reset with schedule := [.snapshotDisplay] }, rfl⟩⟩
theorem witness_SetKeySetsOneLevel :
    (∃ s : State, s.nextTurn = .setKey 15 true) ∧ (∃ s : State, s.nextTurn = .setKey 16 true) :=
  ⟨⟨{ State.reset with schedule := [.setKey 15 true] }, rfl⟩, ⟨{ State.reset with schedule := [.setKey 16 true] }, rfl⟩⟩
theorem witness_ResetInstallsResetState :
    ∃ (s : State) (mode : Mode) (rest : List HostOp), s.nextTurn = .host ∧ s.hostOps = .reset mode :: rest ∧ s.RUN = .stopped ∧
      s.resetDone = false :=
  ⟨{ State.reset with resetDone := false, schedule := [.host], hostOps := [.reset .legacy, .start] }, .legacy, [.start], rfl,
    rfl, rfl, rfl⟩
theorem witness_ResetMemoryIsFontAndFill : (0x4F < 0x50 ∨ 0xA0 ≤ 0x4F) ∧ (0xA0 < 0x50 ∨ 0xA0 ≤ 0xA0) := by decide
theorem witness_LoadRomPlacesImage :
    ∃ (s : State) (bytes : List Byte) (rest : List HostOp), s.nextTurn = .host ∧ s.hostOps = .loadRom bytes :: rest ∧
      s.RUN = .stopped ∧ s.resetDone = true ∧ ∃ i, i < bytes.length ∧ i < 3584 :=
  ⟨{ State.reset with schedule := [.host], hostOps := [.loadRom [0x12, 0x00]] }, [0x12, 0x00], [], rfl, rfl, rfl, rfl, 1,
    by decide, by decide⟩
/-- The boundary addresses of the two untouched ranges of a 2-byte image. -/
theorem witness_LoadRomPlacesImage_untouched :
    ((0x11FF : Word).toNat % 4096 < 512) ∧ (512 + [0x12, 0x00].length ≤ (0x202 : Word).toNat % 4096) := by decide
theorem witness_StartAndStopChangeOnlyRun :
    (∃ s : State, s.nextTurn = .host ∧ s.hostOps = [.start] ∧ s.RUN = .stopped ∧ s.resetDone = true) ∧
    (∃ s : State, s.nextTurn = .host ∧ s.hostOps = [.stop] ∧ s.RUN = .running ∧ s.PHASE = .fetch) ∧
    (∃ s : State, s.nextTurn = .host ∧ s.hostOps = [.stop] ∧ s.RUN = .running ∧ s.PHASE = .drawWait) :=
  ⟨⟨{ State.reset with schedule := [.host], hostOps := [.start] }, rfl, rfl, rfl, rfl⟩,
    ⟨{ start .none with schedule := [.host], hostOps := [.stop] }, rfl, rfl, rfl, rfl⟩,
    ⟨{ held false with schedule := [.host], hostOps := [.stop] }, rfl, rfl, rfl, rfl⟩⟩
theorem witness_LifecycleMisuseHasNoStep :
    (∃ s : State, s.nextTurn = .host ∧ s.hostOps = [.reset .none] ∧ s.RUN = .running) ∧
    (∃ s : State, s.nextTurn = .host ∧ s.hostOps = [.loadRom []] ∧ s.RUN = .running) ∧
    (∃ s : State, s.nextTurn = .host ∧ s.hostOps = [.loadRom []] ∧ s.resetDone = false) ∧
    (∃ s : State, s.nextTurn = .host ∧ s.hostOps = [.start] ∧ s.RUN = .running) ∧
    (∃ s : State, s.nextTurn = .host ∧ s.hostOps = [.start] ∧ s.resetDone = false) ∧
    (∃ s : State, s.nextTurn = .host ∧ s.hostOps = [.stop] ∧ s.RUN = .stopped) :=
  ⟨⟨{ start .none with schedule := [.host], hostOps := [.reset .none] }, rfl, rfl, rfl⟩,
    ⟨{ start .none with schedule := [.host], hostOps := [.loadRom []] }, rfl, rfl, rfl⟩,
    ⟨{ State.reset with resetDone := false, schedule := [.host], hostOps := [.loadRom []] }, rfl, rfl, rfl⟩,
    ⟨{ start .none with schedule := [.host], hostOps := [.start] }, rfl, rfl, rfl⟩,
    ⟨{ State.reset with resetDone := false, schedule := [.host], hostOps := [.start] }, rfl, rfl, rfl⟩,
    ⟨{ State.reset with schedule := [.host], hostOps := [.stop] }, rfl, rfl, rfl⟩⟩
/-- A running state with a byte stored has the invariant, and a step answers from it. -/
theorem witness_EveryStepKeepsTheInvariant : ∃ s t : State, s.Inv ∧ s.RUN = .running ∧ step s = .next t :=
  ⟨(start .legacy).placeWord 0x8014, _,
    ⟨rfl, by decide, fun h => absurd h (by decide), fun h => absurd rfl h, fun _ h => nomatch h⟩, rfl, rfl⟩
/-- A held draw has the invariant. -/
theorem witness_EveryStepKeepsTheInvariant_held : ∃ s t : State, s.Inv ∧ s.PHASE = .drawWait ∧ step s = .next t :=
  ⟨held true, _, ⟨rfl, by decide, fun _ => (by decide), fun h => absurd rfl h, (fun _ h => nomatch h)⟩, rfl, rfl⟩
theorem witness_NoWordStopsTheCore : ∃ s : State, s.cfg.stackDepth = none ∧ s.RUN = .running := ⟨start .none, rfl, rfl⟩
theorem witness_OnlyFaultIsStackOverflow : ∃ (s : State) (f : Fault), step s = .fault f :=
  ⟨(withDepth .none 1 [0x202]).placeWord 0x2ABC, .stackOverflow, rfl⟩
theorem witness_ModeChangesOnlyByReset : ∃ s t : State, step s = .next t ∧ t.MODE ≠ s.MODE :=
  ⟨{ State.reset with schedule := [.host], hostOps := [.reset .legacy] }, _, rfl, by decide⟩
theorem witness_NonLegacyModesBehaveAlike :
    ∃ (i : Instr) (s t : State) (m : Mode), s.MODE ≠ .legacy ∧ m ≠ .legacy ∧ exec i s = .next t :=
  ⟨.or 1 2, start .none, _, .extendedA, by decide, by decide, rfl⟩
theorem witness_SoundTimerAndReportAreNeverRead : ∃ (i : Instr) (s t : State), exec i s = .next t :=
  ⟨.lddt 3, start .none, _, rfl⟩
theorem witness_SingleWriterDiscipline_running :
    (∃ s t : State, step s = .next t ∧ s.RUN = .running ∧ s.nextTurn = .timer) ∧
    (∃ s t : State, step s = .next t ∧ s.RUN = .running ∧ s.nextTurn = .publishFrame) ∧
    (∃ s t : State, step s = .next t ∧ s.RUN = .running ∧ s.nextTurn = .core ∧ t.FRAME_READY = true) ∧
    (∃ s t : State, step s = .next t ∧ s.RUN = .running ∧ s.nextTurn = .host) :=
  ⟨⟨{ start .none with schedule := [.timer] }, _, rfl, rfl, rfl⟩, ⟨{ start .none with schedule := [.publishFrame] }, _, rfl, rfl, rfl⟩,
    ⟨{ start .none with FRAME_READY := true }, _, rfl, rfl, rfl, rfl⟩, ⟨{ start .none with schedule := [.host] }, _, rfl, rfl, rfl⟩⟩
theorem witness_SingleWriterDiscipline_stopped :
    (∃ s t : State, step s = .next t ∧ s.RUN = .stopped ∧ s.nextTurn = .core) ∧
    (∃ s t : State, step s = .next t ∧ s.RUN = .stopped ∧ s.nextTurn = .setKey 3 true) :=
  ⟨⟨State.reset, _, rfl, rfl, rfl⟩, ⟨{ State.reset with schedule := [.setKey 3 true] }, _, rfl, rfl, rfl⟩⟩
theorem witness_InstructionsWriteOnlyTheirOwn :
    (∃ (i : Instr) (s t : State), exec i s = .next t ∧ t.STACK ≠ s.STACK) ∧
    (∃ (i : Instr) (s t : State), exec i s = .next t ∧ t.KEYWAIT ≠ s.KEYWAIT) ∧
    (∃ (i : Instr) (s t : State), exec i s = .next t ∧ t.MEM ≠ s.MEM) :=
  ⟨⟨.call 0xABC, start .none, _, rfl, by decide⟩, ⟨.ldk 5, (start .legacy).setKey 9 true, _, rfl, by decide⟩,
    ⟨.stm 0, withRegs .none [(0, 7)], _, rfl, by decide⟩⟩
theorem witness_FlagRegisterWriters : ∃ (i : Instr) (s t : State), exec i s = .next t ∧ t.reg VF ≠ s.reg VF :=
  ⟨.add 0 1, withRegs .none [(0, 0xFF), (1, 1)], _, rfl, by decide⟩
/-- A draw outside LEGACY mode, a logic operation in LEGACY mode, and a load into VF. -/
theorem witness_FlagRegisterWriters_clauses :
    (∃ (x y n : Fin 16) (s t : State), exec (.drw x y n) s = .next t ∧ s.MODE ≠ .legacy ∧ t.reg VF ≠ s.reg VF) ∧
    (∃ (x y : Reg) (s t : State), exec (.or x y) s = .next t ∧ s.MODE = .legacy ∧ x ≠ VF ∧ t.reg VF ≠ s.reg VF) ∧
    (∃ (nn : Byte) (s t : State), exec (.ldi VF nn) s = .next t ∧ t.reg VF ≠ s.reg VF) :=
  ⟨⟨0, 1, 0, withRegs .none [(15, 1)], (withRegs .none [(15, 1)]).draw 0 1 0, rfl, by decide, by decide⟩,
    ⟨1, 2, withRegs .legacy [(15, 1)], _, rfl, rfl, by decide, by decide⟩, ⟨0xAB, start .none, _, rfl, by decide⟩⟩

end Sys2Proof.Tests
end

section
/-! PROOFS. The single-writer discipline (20_memory.md R66): what the turn of each agent can write, and from that what a step
leaves unchanged. -/

namespace Sys2Proof.Machine

/-! ### What each agent's turn writes -/

/-- An instruction leaves the keys alone. -/
theorem exec_KEYS {i : Instr} {s t : State} (h : exec i s = .next t) : t.KEYS = s.KEYS := by
  have e := exec_programPart h
  unfold ProgramPart at e
  rw [e]

/-- An instruction leaves the frame-ready slot alone. -/
theorem exec_FRAME_READY {i : Instr} {s t : State} (h : exec i s = .next t) : t.FRAME_READY = s.FRAME_READY := by
  have e := exec_programPart h
  unfold ProgramPart at e
  rw [e]

/-- The CORE never writes the keys and never sets frame-ready. -/
theorem coreTurn_writes {s t : State} (h : s.coreTurn = .next t) :
    t.KEYS = s.KEYS ∧ (t.FRAME_READY = true → s.FRAME_READY = true) := by
  rcases coreTurn_cases s with ⟨_, e⟩ | ⟨_, _, i, _, e⟩ | ⟨_, _, _, e⟩ | ⟨_, _, hready, e⟩ | ⟨_, _, _, e⟩ <;> rw [e] at h
  · obtain rfl := Host.Outcome.next.inj h
    exact ⟨rfl, id⟩
  · have hkeys := exec_KEYS h
    have hframe := exec_FRAME_READY h
    exact ⟨hkeys, fun ht => hframe.symm.trans ht⟩
  · obtain rfl := Host.Outcome.next.inj h
    exact ⟨rfl, id⟩
  · obtain rfl := Host.Outcome.next.inj h
    exact ⟨rfl, fun _ => hready⟩
  · obtain rfl := Host.Outcome.next.inj h
    exact ⟨rfl, id⟩

theorem countDown_le (b : Byte) : (countDown b).toNat ≤ b.toNat := by
  unfold countDown
  split
  · bv_omega
  · exact Nat.le_refl _

theorem timerTurn_running {s : State} (hr : s.RUN = .running) :
    s.timerTurn = (s.setDT (countDown s.DT)).setST (countDown s.ST) := by
  unfold State.timerTurn
  rw [hr]

theorem timerTurn_stopped {s : State} (hr : s.RUN = .stopped) : s.timerTurn = s := by
  unfold State.timerTurn
  rw [hr]

/-- INPUT writes the keys and nothing else. -/
theorem setKey_eq (s : State) (k : Nat) (b : Bool) : s.setKey k b = { s with KEYS := (s.setKey k b).KEYS } := by
  unfold State.setKey
  split <;> rfl

/-- While RUNNING the only operation of the HOST that is answered is `stop()`, which leaves everything but RUN alone. -/
theorem hostAttempt_running {s t : State} {op : HostOp} {rest : List HostOp} (hr : s.RUN = .running)
    (h : s.hostAttempt rest op = .next t) : t = { s with RUN := t.RUN, hostOps := t.hostOps } := by
  cases op with
  | reset mode => simp [State.hostAttempt, hr] at h
  | loadRom bytes => simp [State.hostAttempt, State.hostReady, hr] at h
  | start => simp [State.hostAttempt, State.hostReady, hr] at h
  | stop =>
    simp only [State.hostAttempt, hr, if_true] at h
    split at h <;> obtain rfl := Host.Outcome.next.inj h <;> rfl

/-- While RUNNING the HOST writes RUN and its own queue and nothing else. -/
theorem hostTurn_running {s t : State} (hr : s.RUN = .running) (h : s.hostTurn = .next t) :
    t = { s with RUN := t.RUN, hostOps := t.hostOps } := by
  unfold State.hostTurn at h
  split at h
  · obtain rfl := Host.Outcome.next.inj h
    rfl
  · exact hostAttempt_running hr h

/-- Everything a step of a running machine can be, agent by agent: the CORE's turn, or what the other agent writes. -/
theorem step_running_cases {s t : State} (hr : s.RUN = .running) (h : step s = .next t) :
    (s.nextTurn = .core ∧ s.afterPick.coreTurn = .next t) ∨
    (s.nextTurn = .timer ∧ t = { s.afterPick with DT := countDown s.DT, ST := countDown s.ST }) ∨
    (s.nextTurn = .publishFrame ∧ t = { s.afterPick with FRAME_READY := true }) ∨
    (s.nextTurn = .snapshotDisplay ∧ t = s.afterPick) ∨
    ((∃ k b, s.nextTurn = .setKey k b) ∧ t = { s.afterPick with KEYS := t.KEYS }) ∨
    (s.nextTurn = .host ∧ t = { s.afterPick with RUN := t.RUN, hostOps := t.hostOps }) := by
  have hpick : s.afterPick.RUN = .running := hr
  rw [step_eq] at h
  cases hn : s.nextTurn with rw [hn] at h
  | core => exact .inl ⟨rfl, h⟩
  | timer =>
    obtain rfl := Host.Outcome.next.inj h
    exact .inr (.inl ⟨rfl, timerTurn_running hpick⟩)
  | publishFrame =>
    obtain rfl := Host.Outcome.next.inj h
    exact .inr (.inr (.inl ⟨rfl, rfl⟩))
  | snapshotDisplay =>
    obtain rfl := Host.Outcome.next.inj h
    exact .inr (.inr (.inr (.inl ⟨rfl, rfl⟩)))
  | setKey k b =>
    obtain rfl := Host.Outcome.next.inj h
    exact .inr (.inr (.inr (.inr (.inl ⟨⟨k, b, rfl⟩, setKey_eq s.afterPick k b⟩))))
  | host => exact .inr (.inr (.inr (.inr (.inr ⟨rfl, hostTurn_running hpick h⟩))))

/-! ### What a step of a running machine leaves unchanged -/

/-- The state `t` differs from `s` at most in the part of the state that agents other than the CORE write while RUNNING. -/
def OutsidePart (s t : State) : Prop :=
  t = { s with
    DT := t.DT, ST := t.ST, KEYS := t.KEYS, RUN := t.RUN, FRAME_READY := t.FRAME_READY, schedule := t.schedule,
    hostOps := t.hostOps }

/-- The components only the CORE writes read the same when only the outside part differs. -/
theorem OutsidePart.same {s t : State} (h : OutsidePart s t) :
    ∀ p ∈ ([.MEM, .V, .I, .PC, .STACK, .KEYWAIT, .PHASE, .IR, .DISP] : List Part), p.same s t := by
  intro p hp
  rw [h]
  cases p with
  | DT | ST | KEYS | MODE | RUN | FRAME_READY | REPORT => exact absurd hp (by decide)
  | cfg | resetDone | draws | schedule | hostOps => exact absurd hp (by decide)
  | V | MEM => exact fun _ => rfl
  | DISP => exact fun _ _ => rfl
  | PC | I | STACK | KEYWAIT | PHASE | IR => exact rfl

theorem Part.same_KEYS {s t : State} (h : t.KEYS = s.KEYS) : Part.same s t .KEYS := by
  intro k
  rw [State.keyDown, h, State.keyDown]

theorem step_outsidePart {s t : State} (hr : s.RUN = .running) (hcore : s.nextTurn ≠ .core) (h : step s = .next t) :
    OutsidePart s t := by
  rcases step_running_cases hr h with ⟨hn, _⟩ | ⟨_, e⟩ | ⟨_, e⟩ | ⟨_, e⟩ | ⟨_, e⟩ | ⟨_, e⟩
  · exact absurd hn hcore
  all_goals
    rw [e]
    rfl

/-- Only `setKey` writes the keys. -/
theorem step_KEYS {s t : State} (hr : s.RUN = .running) (hset : ∀ k b, s.nextTurn ≠ .setKey k b)
    (h : step s = .next t) : t.KEYS = s.KEYS := by
  rcases step_running_cases hr h with ⟨_, e⟩ | ⟨_, e⟩ | ⟨_, e⟩ | ⟨_, e⟩ | ⟨⟨k, b, hn⟩, _⟩ | ⟨_, e⟩
  · exact (coreTurn_writes e).1
  · exact (congrArg State.KEYS e).trans rfl
  · exact (congrArg State.KEYS e).trans rfl
  · exact (congrArg State.KEYS e).trans rfl
  · exact absurd hn (hset k b)
  · exact (congrArg State.KEYS e).trans rfl

/-- Only the CORE and the TIMER write the timers. -/
theorem step_timers {s t : State} (hr : s.RUN = .running) (hcore : s.nextTurn ≠ .core) (htimer : s.nextTurn ≠ .timer)
    (h : step s = .next t) : t.DT = s.DT ∧ t.ST = s.ST := by
  rcases step_running_cases hr h with ⟨hn, _⟩ | ⟨hn, _⟩ | ⟨_, e⟩ | ⟨_, e⟩ | ⟨_, e⟩ | ⟨_, e⟩
  · exact absurd hn hcore
  · exact absurd hn htimer
  all_goals exact ⟨(congrArg State.DT e).trans rfl, (congrArg State.ST e).trans rfl⟩

/-- A tick counts both timers down. -/
theorem step_timer {s t : State} (hr : s.RUN = .running) (hn : s.nextTurn = .timer) (h : step s = .next t) :
    t.DT = countDown s.DT ∧ t.ST = countDown s.ST := by
  have hpick : s.afterPick.RUN = .running := hr
  rw [step_eq, hn] at h
  obtain rfl := Host.Outcome.next.inj h
  rw [timerTurn_running hpick]
  exact ⟨rfl, rfl⟩

/-- Only the CORE and `publishFrame` write the frame-ready slot. -/
theorem step_FRAME_READY {s t : State} (hr : s.RUN = .running) (hcore : s.nextTurn ≠ .core)
    (hpublish : s.nextTurn ≠ .publishFrame) (h : step s = .next t) : t.FRAME_READY = s.FRAME_READY := by
  rcases step_running_cases hr h with ⟨hn, _⟩ | ⟨_, e⟩ | ⟨hn, _⟩ | ⟨_, e⟩ | ⟨_, e⟩ | ⟨_, e⟩
  · exact absurd hn hcore
  · exact (congrArg State.FRAME_READY e).trans rfl
  · exact absurd hn hpublish
  all_goals exact (congrArg State.FRAME_READY e).trans rfl

theorem step_core {s : State} (hn : s.nextTurn = .core) : step s = s.afterPick.coreTurn := by
  rw [step_eq, hn]
  rfl

theorem step_publishFrame {s : State} (hn : s.nextTurn = .publishFrame) : step s = .next s.afterPick.publishFrame := by
  rw [step_eq, hn]
  rfl

/-! ### What a step of a stopped machine leaves unchanged -/

/-- While STOPPED the CORE and the TIMER write nothing. -/
theorem step_stopped_core_timer {s t : State} (hr : s.RUN = .stopped) (hn : s.nextTurn = .core ∨ s.nextTurn = .timer)
    (h : step s = .next t) : t = s.afterPick := by
  have hpick : s.afterPick.RUN = .stopped := hr
  rw [step_eq] at h
  rcases hn with hn | hn <;> rw [hn] at h
  · exact (Host.Outcome.next.inj ((coreTurn_stopped hpick).symm.trans h)).symm
  · exact (Host.Outcome.next.inj h).symm.trans (timerTurn_stopped hpick)

/-- While STOPPED every agent but the HOST writes at most the keys and the frame-ready slot. -/
theorem step_stopped {s t : State} (hr : s.RUN = .stopped) (hhost : s.nextTurn ≠ .host) (h : step s = .next t) :
    t = { s.afterPick with KEYS := t.KEYS, FRAME_READY := t.FRAME_READY } := by
  cases hn : s.nextTurn with
  | host => exact absurd hn hhost
  | core => rw [step_stopped_core_timer hr (.inl hn) h]
  | timer => rw [step_stopped_core_timer hr (.inr hn) h]
  | publishFrame | snapshotDisplay =>
    rw [step_eq, hn] at h
    obtain rfl := Host.Outcome.next.inj h
    rfl
  | setKey k b =>
    rw [step_eq, hn] at h
    obtain rfl := Host.Outcome.next.inj h
    rw [setKey_eq]

theorem unchangedExcept_keys_frameReady {s t : State}
    (h : t = { s with KEYS := t.KEYS, FRAME_READY := t.FRAME_READY }) : UnchangedExcept [.KEYS, .FRAME_READY] s t := by
  intro p hp
  rw [h]
  cases p with
  | KEYS | FRAME_READY => exact absurd (by decide) hp
  | V | MEM => exact fun _ => rfl
  | DISP => exact fun _ _ => rfl
  | _ => exact rfl

/-- Settles O58: each clause is what the turns of the agents it names can write, read off the case analysis of a step. -/
theorem singleWriterDiscipline : Obligations.SingleWriterDiscipline := by
  intro s t h
  refine ⟨fun hr => ⟨?_, ?_, ?_, ?_, ?_, ?_, ?_⟩, ?_, ?_⟩
  · exact fun hcore => (step_outsidePart hr hcore h).same
  · exact fun hset => Part.same_KEYS (step_KEYS hr hset h)
  · exact fun hcore htimer => step_timers hr hcore htimer h
  · intro htimer
    obtain ⟨hDT, hST⟩ := step_timer hr htimer h
    rw [hDT, hST]
    exact ⟨countDown_le s.DT, countDown_le s.ST⟩
  · exact fun hcore hpublish => step_FRAME_READY hr hcore hpublish h
  · exact fun hcore => (coreTurn_writes ((step_core hcore).symm.trans h)).2
  · intro hpublish
    obtain rfl := Host.Outcome.next.inj ((step_publishFrame hpublish).symm.trans h)
    exact publishFrame_FRAME_READY s.afterPick
  · exact fun hr hhost => unchangedExcept_keys_frameReady (step_stopped hr hhost h)
  · exact fun hr hn => step_stopped_core_timer hr hn h

end Sys2Proof.Machine
end

section
/-! PROOFS. Return, jumps and register skips (40_control.md R92, R93, R95 to R99): the word of an instruction decodes to it,
what a write of PC or STACK leaves unchanged, and from these the instructions one by one. -/

namespace Sys2Proof.Machine

/-! ### Decoding -/

/-- The decoder reads back every instruction: its family picks the branch, a fixed low field the row (R74). -/
theorem decodeWord_encodeWord (i : Instr) : decodeWord (encodeWord i) = some i := by
  cases i with
  | cls | ret => rfl
  | jp nnn | call nnn | ldidx nnn | jpv0 nnn => simp [encodeWord, decodeWord]
  | sei x nn | snei x nn | ldi x nn | addi x nn | rnd x nn => simp [encodeWord, decodeWord]
  | ser x y | sner x y | drw x y n => simp [encodeWord, decodeWord]
  | mov x y | or x y | and x y | xor x y | add x y | sub x y | shr x y | subn x y | shl x y =>
    simp [encodeWord, decodeWord, decodeFamily8]
  | skp x | sknp x => simp [encodeWord, decodeWord, decodeFamilyE]
  | lddt x | ldk x | stdt x | stst x | addidx x | ldfont x | bcd x | stm x | ldm x =>
    simp [encodeWord, decodeWord, decodeFamilyF]

/-! ### Frames -/

theorem Part.same_trans {p : Part} {s t u : State} (hst : p.same s t) (htu : p.same t u) : p.same s u := by
  cases p with
  | V | MEM | KEYS => exact fun a => (htu a).trans (hst a)
  | DISP => exact fun row col => (htu row col).trans (hst row col)
  | _ => exact Eq.trans htu hst

/-- The frames of two changes in a row compose. -/
theorem UnchangedExcept.trans {ps qs : List Part} {s t u : State} (hst : UnchangedExcept ps s t)
    (htu : UnchangedExcept qs t u) : UnchangedExcept (ps ++ qs) s u := by
  intro p hp
  rw [List.mem_append, not_or] at hp
  exact Part.same_trans (hst p hp.1) (htu p hp.2)

theorem unchangedExcept_setPC (s : State) (w : Word) : UnchangedExcept [.PC] s (s.setPC w) := by
  intro p hp
  cases p with
  | PC => exact absurd (by decide) hp
  | V | MEM | KEYS => exact fun _ => rfl
  | DISP => exact fun _ _ => rfl
  | _ => exact rfl

theorem unchangedExcept_popped (s : State) : UnchangedExcept [.STACK] s s.popped := by
  intro p hp
  cases p with
  | STACK => exact absurd (by decide) hp
  | V | MEM | KEYS => exact fun _ => rfl
  | DISP => exact fun _ _ => rfl
  | _ => exact rfl

/-! ### Operands, the popped value and the conditional skip -/

@[simp] theorem addrOperand_toNat (nnn : Addr12) : (addrOperand nnn).toNat = nnn.toNat :=
  BitVec.toNat_setWidth_of_le (by decide)

@[simp] theorem regWord_toNat (s : State) (x : Reg) : (s.regWord x).toNat = (s.reg x).toNat :=
  BitVec.toNat_setWidth_of_le (by decide)

theorem popValue_of_cons {s : State} {a : Word} {rest : List Word} (h : s.STACK = a :: rest) : s.popValue = a := by
  rw [State.popValue, h, List.headD_cons]

theorem popValue_of_nil {s : State} (h : s.STACK = []) : s.popValue = 0 := by
  rw [State.popValue, h, List.headD_nil]

/-- A conditional skip is one write of PC (R91). -/
theorem skipDone_skipIf (s : State) (c : Prop) [Decidable c] : SkipDone c s (s.skipIf (decide c)) := by
  have hset : s.skipIf (decide c) = s.setPC (if c then s.PC + 2 else s.PC) := by
    simp only [skipIf_eq, decide_eq_true_eq, State.setPC]
  rw [hset]
  exact ⟨fun hc => if_pos hc, fun hc => if_neg hc, unchangedExcept_setPC s _⟩

/-! ### The instructions -/

theorem exec_ret (s : State) : exec .ret s = .next (s.popped.setPC s.popValue) := rfl

theorem exec_jp (nnn : Addr12) (s : State) : exec (.jp nnn) s = .next (s.setPC (addrOperand nnn)) := rfl

theorem exec_jpv0 (nnn : Addr12) (s : State) :
    exec (.jpv0 nnn) s = .next (s.setPC (addrOperand nnn + s.regWord 0)) := rfl

theorem exec_sei (x : Reg) (nn : Byte) (s : State) :
    exec (.sei x nn) s = .next (s.skipIf (decide (s.reg x = nn))) := rfl

theorem exec_snei (x : Reg) (nn : Byte) (s : State) :
    exec (.snei x nn) s = .next (s.skipIf (decide (s.reg x ≠ nn))) := rfl

theorem exec_ser (x y : Reg) (s : State) :
    exec (.ser x y) s = .next (s.skipIf (decide (s.reg x = s.reg y))) := rfl

theorem exec_sner (x y : Reg) (s : State) :
    exec (.sner x y) s = .next (s.skipIf (decide (s.reg x ≠ s.reg y))) := rfl

/-- Settles O11: each jump is one write of PC, and the 16-bit sum of Bnnn is the sum modulo 65536. -/
theorem jumpsSetPC : Obligations.JumpsSetPC := by
  intro s nnn
  have hsum : (addrOperand nnn + s.regWord 0).toNat = (nnn.toNat + (s.reg 0).toNat) % 65536 := by
    rw [BitVec.toNat_add, addrOperand_toNat, regWord_toNat]
  exact ⟨⟨decodeWord_encodeWord (.jp nnn), _, exec_jp nnn s, addrOperand_toNat nnn, unchangedExcept_setPC s _⟩,
    ⟨decodeWord_encodeWord (.jpv0 nnn), _, exec_jpv0 nnn s, hsum, unchangedExcept_setPC s _⟩⟩

/-- Settles O14: a pop takes the head of a stack that has one, and 0 from an empty stack, whose tail is empty again. -/
theorem returnPopsIntoPC : Obligations.ReturnPopsIntoPC := by
  refine ⟨decodeWord_encodeWord .ret, fun s => ⟨_, exec_ret s, fun a rest h => ?_, fun h => ?_, ?_⟩⟩
  · exact ⟨popValue_of_cons h, congrArg List.tail h⟩
  · exact ⟨popValue_of_nil h, congrArg List.tail h⟩
  · exact (unchangedExcept_popped s).trans (unchangedExcept_setPC s.popped _)

/-- Settles O16: each of the four is a conditional skip on its own comparison. -/
theorem registerSkips : Obligations.RegisterSkips := by
  intro s x y nn
  exact ⟨⟨decodeWord_encodeWord (.sei x nn), _, exec_sei x nn s, skipDone_skipIf s _⟩,
    ⟨decodeWord_encodeWord (.snei x nn), _, exec_snei x nn s, skipDone_skipIf s _⟩,
    ⟨decodeWord_encodeWord (.ser x y), _, exec_ser x y s, skipDone_skipIf s _⟩,
    ⟨decodeWord_encodeWord (.sner x y), _, exec_sner x y s, skipDone_skipIf s _⟩⟩

end Sys2Proof.Machine
end

section
/-! PROOFS. Loads, the copy and the immediate addition (41_alu.md R112 to R114): what a change of registers alone leaves
unchanged, what one register write leaves of the others, and from these the instructions one by one. -/

namespace Sys2Proof.Machine

/-! ### Frames of a register write -/

/-- Two states that differ at most in the registers read the same in every other component. -/
theorem unchangedExcept_V {s t : State} (h : t = { s with V := t.V }) : UnchangedExcept [.V] s t := by
  intro p hp
  rw [h]
  cases p with
  | V => exact absurd (by decide) hp
  | MEM | KEYS => exact fun _ => rfl
  | DISP => exact fun _ _ => rfl
  | _ => exact rfl

theorem regsExcept_setReg (s : State) (x : Reg) (b : Byte) : RegsExcept [x] s (s.setReg x b) :=
  fun _ hr => reg_setReg_ne s b (List.ne_of_not_mem_cons hr)

/-- The whole effect of an instruction that writes Vx alone, x = F included. -/
theorem setReg_effect (s : State) (x : Reg) (b : Byte) :
    (s.setReg x b).reg x = b ∧ RegsExcept [x] s (s.setReg x b) ∧ UnchangedExcept [.V] s (s.setReg x b) :=
  ⟨reg_setReg_same s x b, regsExcept_setReg s x b, unchangedExcept_V (setReg_eq s x b)⟩

/-! ### The instructions -/

theorem exec_ldi (x : Reg) (nn : Byte) (s : State) : exec (.ldi x nn) s = .next (s.setReg x nn) := rfl

theorem exec_mov (x y : Reg) (s : State) : exec (.mov x y) s = .next (s.setReg x (s.reg y)) := rfl

theorem exec_addi (x : Reg) (nn : Byte) (s : State) : exec (.addi x nn) s = .next (s.setReg x (s.reg x + nn)) := rfl

/-- Settles O17: each of the two is one write of Vx. -/
theorem loadImmediateAndCopy : Obligations.LoadImmediateAndCopy := by
  intro s x y nn
  exact ⟨⟨decodeWord_encodeWord (.ldi x nn), _, exec_ldi x nn s, setReg_effect s x nn⟩,
    ⟨decodeWord_encodeWord (.mov x y), _, exec_mov x y s, setReg_effect s x (s.reg y)⟩⟩

/-- Settles O18: one write of Vx, whose 8-bit sum is the sum modulo 256. -/
theorem addImmediateWrapsWithoutFlag : Obligations.AddImmediateWrapsWithoutFlag := by
  intro s x nn
  obtain ⟨hx, hregs, hframe⟩ := setReg_effect s x (s.reg x + nn)
  have hsum : ((s.setReg x (s.reg x + nn)).reg x).toNat = ((s.reg x).toNat + nn.toNat) % 256 := by
    rw [hx, BitVec.toNat_add]
  exact ⟨decodeWord_encodeWord (.addi x nn), _, exec_addi x nn s, hsum, hregs, hframe⟩

end Sys2Proof.Machine
end

section
/-! PROOFS. The memory instructions Fx33, Fx55 and Fx65 (42_index_memory.md R133 to R135): what a write of MEM or I leaves
unchanged, what a block of bytes or registers holds after the move, and from these the instructions one by one. -/

namespace Sys2Proof.Machine

/-! ### Frames -/

theorem unchangedExcept_MEM {s t : State} {m : Memory} (h : t = { s with MEM := m }) : UnchangedExcept [.MEM] s t := by
  subst h
  intro p hp
  cases p with
  | MEM => exact absurd (by decide) hp
  | V | KEYS => exact fun _ => rfl
  | DISP => exact fun _ _ => rfl
  | _ => exact rfl

theorem unchangedExcept_I {s t : State} {w : Word} (h : t = { s with I := w }) : UnchangedExcept [.I] s t := by
  subst h
  intro p hp
  cases p with
  | I => exact absurd (by decide) hp
  | V | MEM | KEYS => exact fun _ => rfl
  | DISP => exact fun _ _ => rfl
  | _ => exact rfl

theorem unchangedExcept_memWriteList (s : State) (a : Word) (vs : List Byte) :
    UnchangedExcept [.MEM] s (s.memWriteList a vs) := unchangedExcept_MEM (memWriteList_eq s a vs)

theorem unchangedExcept_loadRegs (s : State) (a : Word) (rs : List Reg) :
    UnchangedExcept [.V] s (s.loadRegs a rs) := unchangedExcept_V (loadRegs_eq s a rs)

theorem unchangedExcept_postIncrementI (s : State) (x : Reg) : UnchangedExcept [.I] s (s.postIncrementI x) :=
  unchangedExcept_I (postIncrementI_eq s x)

theorem bytesOutside_memWriteList (s : State) (a : Word) (vs : List Byte) :
    BytesOutside a vs.length s (s.memWriteList a vs) := fun b hb => memRead_memWriteList_outside s a b vs hb

/-! ### The post-increment of I -/

@[simp] theorem reg_postIncrementI (s : State) (x r : Reg) : (s.postIncrementI x).reg r = s.reg r :=
  unchangedExcept_postIncrementI s x .V (by decide) r

@[simp] theorem memRead_postIncrementI (s : State) (x : Reg) (a : Word) : (s.postIncrementI x).memRead a = s.memRead a :=
  unchangedExcept_postIncrementI s x .MEM (by decide) a

theorem postIncrementI_I_legacy {s : State} (x : Reg) (h : s.MODE = .legacy) :
    (s.postIncrementI x).I.toNat = (s.I.toNat + x.val + 1) % 65536 := by
  rw [postIncrementI_eq, if_pos ((isLegacy_iff s).mpr h)]
  simp only [State.blockAddr, BitVec.toNat_add, BitVec.toNat_ofNat]
  omega

theorem postIncrementI_I_not_legacy {s : State} (x : Reg) (h : s.MODE ≠ .legacy) : (s.postIncrementI x).I = s.I := by
  rw [postIncrementI_eq, if_neg (mt (isLegacy_iff s).mp h)]

/-! ### The decimal digits -/

/-- The digits of a byte as numbers: each fits in a byte, so none is truncated. -/
theorem toNat_bcdDigits (v : Byte) :
    (bcdDigits v).map BitVec.toNat = [v.toNat / 100, v.toNat / 10 % 10, v.toNat % 10] := by
  have hv := v.isLt
  have hundreds : v.toNat / 100 % 2 ^ 8 = v.toNat / 100 := Nat.mod_eq_of_lt (by omega)
  have tens : v.toNat / 10 % 10 % 2 ^ 8 = v.toNat / 10 % 10 := Nat.mod_eq_of_lt (by omega)
  have ones : v.toNat % 10 % 2 ^ 8 = v.toNat % 10 := Nat.mod_eq_of_lt (by omega)
  simp only [bcdDigits, List.map_cons, List.map_nil, BitVec.toNat_ofNat, hundreds, tens, ones]

theorem length_bcdDigits (v : Byte) : (bcdDigits v).length = 3 := rfl

/-- A stored digit reads as the number at its place. -/
theorem toNat_memRead_storeDigits (s : State) (a : Word) (v : Byte) (j : Nat) (hj : j < 3) :
    ((s.memWriteList a (bcdDigits v)).memRead (a + BitVec.ofNat 16 j)).toNat =
      [v.toNat / 100, v.toNat / 10 % 10, v.toNat % 10][j] := by
  rw [memRead_memWriteList s a (bcdDigits v) (by rw [length_bcdDigits]; decide) j hj]
  simp only [← toNat_bcdDigits]
  exact (List.getElem_map BitVec.toNat).symm

/-! ### The block V0 to Vx -/

/-- A stored register reads back at its place in the block. -/
theorem memRead_storeBlock (s : State) (a : Word) {x i : Reg} (h : i ≤ x) :
    (s.memWriteList a ((blockRegs x).map s.reg)).memRead (a + BitVec.ofNat 16 i.val) = s.reg i := by
  have hx := x.isLt
  have hlen : ((blockRegs x).map s.reg).length = x.val + 1 := by rw [List.length_map, length_blockRegs]
  rw [memRead_memWriteList s a _ (by omega) i.val (hlen ▸ Nat.lt_succ_of_le h), List.getElem_map, getElem_blockRegs]

/-- A loaded register holds the byte at its place in the block. -/
theorem reg_loadBlock (s : State) (a : Word) {x i : Reg} (h : i ≤ x) :
    (s.loadRegs a (blockRegs x)).reg i = s.memRead (a + BitVec.ofNat 16 i.val) := by
  have hread := reg_loadRegs s a (blockRegs x) (nodup_blockRegs x) i.val (length_blockRegs x ▸ Nat.lt_succ_of_le h)
  rwa [getElem_blockRegs] at hread

theorem reg_loadBlock_above (s : State) (a : Word) {x i : Reg} (h : x < i) :
    (s.loadRegs a (blockRegs x)).reg i = s.reg i :=
  reg_loadRegs_outside s a _ i fun hi => absurd ((mem_blockRegs x i).mp hi) (not_le.mpr h)

/-! ### The instructions -/

theorem exec_bcd (x : Reg) (s : State) : exec (.bcd x) s = .next (s.memWriteList s.I (bcdDigits (s.reg x))) := rfl

theorem exec_stm (x : Reg) (s : State) :
    exec (.stm x) s = .next ((s.memWriteList s.I ((blockRegs x).map s.reg)).postIncrementI x) := rfl

theorem exec_ldm (x : Reg) (s : State) :
    exec (.ldm x) s = .next ((s.loadRegs s.I (blockRegs x)).postIncrementI x) := rfl

/-- Settles O27: the three digits are one block store from I. -/
theorem storeDecimalDigits : Obligations.StoreDecimalDigits := by
  intro s x
  have hdigit := toNat_memRead_storeDigits s s.I (s.reg x)
  have hhundreds := hdigit 0 (by decide)
  rw [BitVec.add_zero] at hhundreds
  exact ⟨decodeWord_encodeWord (.bcd x), _, exec_bcd x s, hhundreds, hdigit 1 (by decide), hdigit 2 (by decide),
    bytesOutside_memWriteList s s.I (bcdDigits (s.reg x)), unchangedExcept_memWriteList s s.I _⟩

/-- Settles O28: a block store from I, which keeps I and MODE, and then the post-increment, which keeps the bytes. -/
theorem storeRegisterBlock : Obligations.StoreRegisterBlock := by
  intro s x
  have hframe := unchangedExcept_memWriteList s s.I ((blockRegs x).map s.reg)
  have houtside := bytesOutside_memWriteList s s.I ((blockRegs x).map s.reg)
  rw [List.length_map, length_blockRegs] at houtside
  have hI := hframe .I (by decide)
  have hmode := hframe .MODE (by decide)
  refine ⟨decodeWord_encodeWord (.stm x), _, exec_stm x s, fun i hi => ?_, fun b hb => ?_, fun h => ?_, fun h => ?_,
    hframe.trans (unchangedExcept_postIncrementI _ x)⟩
  · rw [memRead_postIncrementI, memRead_storeBlock s s.I hi]
  · rw [memRead_postIncrementI, houtside b hb]
  · rw [postIncrementI_I_legacy x (hmode.trans h), hI]
  · rw [postIncrementI_I_not_legacy x (hmode.trans_ne h), hI]

/-- Settles O29: a block load from I, which keeps I and MODE, and then the post-increment, which keeps the registers. -/
theorem loadRegisterBlock : Obligations.LoadRegisterBlock := by
  intro s x
  have hframe := unchangedExcept_loadRegs s s.I (blockRegs x)
  have hI := hframe .I (by decide)
  have hmode := hframe .MODE (by decide)
  refine ⟨decodeWord_encodeWord (.ldm x), _, exec_ldm x s, fun i hi => ?_, fun i hi => ?_, fun h => ?_, fun h => ?_,
    hframe.trans (unchangedExcept_postIncrementI _ x)⟩
  · rw [reg_postIncrementI, reg_loadBlock s s.I hi]
  · rw [reg_postIncrementI, reg_loadBlock_above s s.I hi]
  · rw [postIncrementI_I_legacy x (hmode.trans h), hI]
  · rw [postIncrementI_I_not_legacy x (hmode.trans_ne h), hI]

end Sys2Proof.Machine
end

section
/-! PROOFS. The display (43_display.md R140): what a write of DISP leaves unchanged, and from it the clear. -/

namespace Sys2Proof.Machine

/-! ### Frames -/

theorem unchangedExcept_setDisp (s : State) (d : Display) : UnchangedExcept [.DISP] s (s.setDisp d) := by
  intro p hp
  cases p with
  | DISP => exact absurd (by decide) hp
  | V => exact reg_setDisp s d
  | MEM => exact memRead_setDisp s d
  | KEYS => exact keyDown_setDisp s d
  | _ => exact rfl

/-! ### The instructions -/

theorem exec_cls (s : State) : exec .cls s = .next (s.setDisp Display.blank) := rfl

/-- Settles O31: one write of DISP, by the display whose every pixel is 0. -/
theorem clearScreen : Obligations.ClearScreen :=
  ⟨decodeWord_encodeWord .cls, fun s => ⟨_, exec_cls s, pixel_blank, unchangedExcept_setDisp s Display.blank⟩⟩

end Sys2Proof.Machine
end

section
/-! PROOFS. The timer moves (44_keys_timers.md R153 to R155): what a write of DT or ST leaves unchanged, and from these the
instructions one by one. -/

namespace Sys2Proof.Machine

/-! ### Frames -/

theorem unchangedExcept_setDT (s : State) (b : Byte) : UnchangedExcept [.DT] s (s.setDT b) := by
  intro p hp
  cases p with
  | DT => exact absurd (by decide) hp
  | V => exact reg_setDT s b
  | MEM => exact memRead_setDT s b
  | DISP => exact fun _ _ => rfl
  | KEYS => exact keyDown_setDT s b
  | _ => exact rfl

theorem unchangedExcept_setST (s : State) (b : Byte) : UnchangedExcept [.ST] s (s.setST b) := by
  intro p hp
  cases p with
  | ST => exact absurd (by decide) hp
  | V => exact reg_setST s b
  | MEM => exact memRead_setST s b
  | DISP => exact fun _ _ => rfl
  | KEYS => exact keyDown_setST s b
  | _ => exact rfl

/-! ### The instructions -/

theorem exec_lddt (x : Reg) (s : State) : exec (.lddt x) s = .next (s.setReg x s.DT) := rfl

theorem exec_stdt (x : Reg) (s : State) : exec (.stdt x) s = .next (s.setDT (s.reg x)) := rfl

theorem exec_stst (x : Reg) (s : State) : exec (.stst x) s = .next (s.setST (s.reg x)) := rfl

/-- Settles O40: the read is one write of Vx, each of the other two one write of its timer. -/
theorem timerMoves : Obligations.TimerMoves := by
  intro s x
  exact ⟨⟨decodeWord_encodeWord (.lddt x), _, exec_lddt x s, setReg_effect s x s.DT⟩,
    ⟨decodeWord_encodeWord (.stdt x), _, exec_stdt x s, setDT_DT s (s.reg x), unchangedExcept_setDT s (s.reg x)⟩,
    ⟨decodeWord_encodeWord (.stst x), _, exec_stst x s, setST_ST s (s.reg x), unchangedExcept_setST s (s.reg x)⟩⟩

end Sys2Proof.Machine
end

section
/-! PROOFS. The unsupported-opcode event and the REFRESHER's moves (60_exceptions.md R160, R177, R178): what a report and a
publish leave unchanged, and from these the two steps. -/

namespace Sys2Proof.Machine

/-! ### Frames -/

theorem UnchangedExcept.mono {ps qs : List Part} {s t : State} (h : UnchangedExcept ps s t) (hsub : ps ⊆ qs) :
    UnchangedExcept qs s t :=
  fun p hp => h p fun hmem => hp (hsub hmem)

theorem unchangedExcept_reportUnsupported (s : State) (op : Word) :
    UnchangedExcept [.REPORT] s (s.reportUnsupported op) := by
  intro p hp
  cases p with
  | REPORT => exact absurd (by decide) hp
  | V => exact reg_reportUnsupported s op
  | MEM => exact memRead_reportUnsupported s op
  | DISP => exact fun _ _ => rfl
  | KEYS => exact keyDown_reportUnsupported s op
  | _ => exact rfl

theorem unchangedExcept_publishFrame (s : State) : UnchangedExcept [.FRAME_READY] s s.publishFrame := by
  intro p hp
  cases p with
  | FRAME_READY => exact absurd (by decide) hp
  | V => exact reg_publishFrame s
  | MEM => exact memRead_publishFrame s
  | DISP => exact fun _ _ => rfl
  | KEYS => exact keyDown_publishFrame s
  | _ => exact rfl

/-! ### The steps -/

/-- A CORE step at an instruction boundary of a running machine is one cycle. -/
theorem step_core_fetch {s : State} (hr : s.RUN = .running) (hp : s.PHASE = .fetch) (hn : s.nextTurn = .core) :
    step s = s.afterPick.cycle :=
  (step_core hn).trans (coreTurn_fetch (s := s.afterPick) hr hp)

theorem step_snapshotDisplay {s : State} (hn : s.nextTurn = .snapshotDisplay) : step s = .next s.afterPick := by
  rw [step_eq, hn]
  rfl

theorem snapshotDisplay_eq (s : State) : s.snapshotDisplay = s.DISP := rfl

/-- Settles O10: a cycle on a word that does not decode is the advance of PC, which is one write of PC, and then the report. -/
theorem unsupportedWordIsReportedAndSkipped : Obligations.UnsupportedWordIsReportedAndSkipped := by
  intro s hr hp hn hd
  have hstep : step s = .next (s.afterPick.advancePC.reportUnsupported s.fetchWord) :=
    (step_core_fetch hr hp hn).trans (cycle_unsupported (s := s.afterPick) hd)
  have hadvance : UnchangedExcept [.PC] s.afterPick s.afterPick.advancePC := unchangedExcept_setPC s.afterPick (s.PC + 2)
  have hframe := hadvance.trans (unchangedExcept_reportUnsupported s.afterPick.advancePC s.fetchWord)
  exact ⟨_, hstep, reportUnsupported_REPORT s.afterPick.advancePC s.fetchWord, advancePC_PC s.afterPick,
    hframe.mono (by decide)⟩

/-- Settles O43: a publish is one write of the slot, and a snapshot takes only its move off the schedule. -/
theorem refresherMoves : Obligations.RefresherMoves := by
  intro s
  refine ⟨fun hn => ?_, fun hn => ?_⟩
  · exact ⟨_, step_publishFrame hn, publishFrame_FRAME_READY s.afterPick, unchangedExcept_publishFrame s.afterPick⟩
  · exact ⟨step_snapshotDisplay hn, fun row col => by rw [snapshotDisplay_eq]⟩

end Sys2Proof.Machine
end

section
/-! PROOFS. Loading an image (70_reset_and_hazards.md R203): what the HOST's turn is when its first operation is enabled, what
the image's block store leaves in memory, and from these the step. -/

namespace Sys2Proof.Machine

/-! ### Frames -/

theorem unchangedExcept_hostOps (s : State) (rest : List HostOp) :
    UnchangedExcept [.hostOps] s { s with hostOps := rest } := by
  intro p hp
  cases p with
  | hostOps => exact absurd (by decide) hp
  | V | MEM | KEYS => exact fun _ => rfl
  | DISP => exact fun _ _ => rfl
  | _ => exact rfl

/-! ### The HOST's turn -/

theorem hostReady_iff (s : State) : s.hostReady = true ↔ s.RUN = .stopped ∧ s.resetDone = true := by
  rw [State.hostReady, Bool.and_eq_true, decide_eq_true_eq]

theorem hostTurn_cons {s : State} {op : HostOp} {rest : List HostOp} (h : s.hostOps = op :: rest) :
    s.hostTurn = s.hostAttempt rest op := by
  rw [State.hostTurn, h]

/-- A HOST step attempts the first operation of the queue. -/
theorem step_host {s : State} {op : HostOp} {rest : List HostOp} (hn : s.nextTurn = .host)
    (hops : s.hostOps = op :: rest) : step s = s.afterPick.hostAttempt rest op := by
  rw [step_eq, hn]
  exact hostTurn_cons (s := s.afterPick) hops

theorem hostAttempt_loadRom {s : State} (h : s.hostReady = true) (rest : List HostOp) (bytes : List Byte) :
    s.hostAttempt rest (.loadRom bytes) = .next { s.hostLoadRom bytes with hostOps := rest } :=
  if_pos h

/-! ### The image in memory -/

/-- The image stored ends at the last cell of memory, so it does not wrap. -/
theorem length_take_romLimit (bytes : List Byte) : (bytes.take romLimit).length = min 3584 bytes.length :=
  List.length_take

theorem memRead_hostLoadRom (s : State) (bytes : List Byte) {i : Nat} (h : i < bytes.length) (hi : i < 3584) :
    (s.hostLoadRom bytes).memRead (BitVec.ofNat 16 (512 + i)) = bytes[i] := by
  have hlen := length_take_romLimit bytes
  rw [BitVec.ofNat_add, ← List.getElem_take (j := romLimit) (h := by omega)]
  exact memRead_memWriteList s _ (bytes.take romLimit) (by omega) i (by omega)

theorem memRead_hostLoadRom_outside (s : State) (bytes : List Byte) {a : Word}
    (h : a.toNat % 4096 < 512 ∨ 512 + bytes.length ≤ a.toNat % 4096) :
    (s.hostLoadRom bytes).memRead a = s.memRead a := by
  refine memRead_memWriteList_outside s _ a (bytes.take romLimit) fun j hj => ?_
  have hbase : (BitVec.ofNat 16 Config.progBase).toNat = 512 := rfl
  rw [length_take_romLimit] at hj
  rw [memIndex_add, memIndex_eq, hbase]
  omega

theorem unchangedExcept_hostLoadRom (s : State) (bytes : List Byte) :
    UnchangedExcept [.MEM] s (s.hostLoadRom bytes) := unchangedExcept_memWriteList s _ _

/-! ### The step -/

/-- Settles O47: the step is one block store of at most 3584 bytes from 512, and then a write of the HOST's queue, which
keeps the bytes. -/
theorem loadRomPlacesImage : Obligations.LoadRomPlacesImage := by
  intro s bytes rest hn hops hrun hreset
  have hready : s.afterPick.hostReady = true := (hostReady_iff s.afterPick).mpr ⟨hrun, hreset⟩
  have hstep := (step_host hn hops).trans (hostAttempt_loadRom hready rest bytes)
  refine ⟨_, hstep, fun i h hi => ?_, fun a ha => ?_, rfl, ?_⟩
  · exact memRead_hostLoadRom s.afterPick bytes h hi
  · exact memRead_hostLoadRom_outside s.afterPick bytes ha
  · exact (unchangedExcept_hostLoadRom s.afterPick bytes).trans (unchangedExcept_hostOps _ rest)

end Sys2Proof.Machine
end

section
/-! PROOFS. Encoding (30_encoding.md R70 to R76): decoding inverts encoding on bytes and on words, the rows of the opcode map
are the words of the instructions, and the words of no row, family by family. -/

namespace Sys2Proof.Machine

/-! ### Decoding the bytes of an instruction -/

/-- Settles O1: the two encoded bytes put together again are the word, which decodes to its instruction. -/
theorem decodeOfEncodeIsTheInstruction : Obligations.DecodeOfEncodeIsTheInstruction := by
  intro i rest
  have hbytes : encode i ++ rest = highByte (encodeWord i) :: lowByte (encodeWord i) :: rest := rfl
  simp only [hbytes, decode, wordOfBytes_high_low, decodeWord_encodeWord]

/-- Settles O5: each sample word is the word of its instruction; the low nibble 1 of 5121 selects no row. -/
theorem sampleWordsDecode : Obligations.SampleWordsDecode :=
  ⟨decodeWord_encodeWord .cls, decodeWord_encodeWord .ret, decodeWord_encodeWord (.jp 0xFFF),
    decodeWord_encodeWord (.call 0xABC), decodeWord_encodeWord (.sei 15 0x01), decodeWord_encodeWord (.ser 1 2),
    decodeWord_encodeWord (.ldi 10 0x05), decodeWord_encodeWord (.shr 2 3), decodeWord_encodeWord (.shl 0 1),
    decodeWord_encodeWord (.jpv0 0x300), decodeWord_encodeWord (.drw 1 2 3), decodeWord_encodeWord (.sknp 2),
    decodeWord_encodeWord (.ldm 3), by decide⟩

/-! ### The word of a decoded instruction -/

theorem encodeWord_of_decodeFamily0 {op : Word} {i : Instr} (h : decodeFamily0 op = some i) : encodeWord i = op := by
  unfold decodeFamily0 at h
  split at h
  · next hop =>
    obtain rfl := Option.some.inj h
    exact hop.symm
  · split at h
    · next hop =>
      obtain rfl := Option.some.inj h
      exact hop.symm
    · exact nomatch h

/-- A word with a fixed low nibble is the word of its family, its registers and that nibble. -/
theorem word_eq_wordR_fixed {op : Word} {f : BitVec 4} {k : Nat} (hf : fieldFamily op = f) (hn : (fieldN op).val = k) :
    op = wordR f (fieldX op) (fieldY op) (Fin.ofNat 16 k) := by
  have hk : fieldN op = Fin.ofNat 16 k := by rw [← hn, Fin.ofNat_val_eq_self]
  rw [← hk]
  exact word_eq_wordR hf

/-- A word with a fixed low byte is the word of its family, its register and that byte. -/
theorem word_eq_wordI_fixed {op : Word} {f : BitVec 4} {k : Nat} (hf : fieldFamily op = f)
    (hnn : (fieldNN op).toNat = k) : op = wordI f (fieldX op) (BitVec.ofNat 8 k) := by
  rw [← eq_ofNat_of_toNat hnn]
  exact word_eq_wordI hf

theorem encodeWord_of_decodeFamily8 {op : Word} {i : Instr} (hf : fieldFamily op = 0x8)
    (h : decodeFamily8 op = some i) : encodeWord i = op := by
  unfold decodeFamily8 at h
  split at h
  case h_10 => exact nomatch h
  all_goals
    next hn =>
    obtain rfl := Option.some.inj h
    exact (word_eq_wordR_fixed hf hn).symm

theorem encodeWord_of_decodeFamilyE {op : Word} {i : Instr} (hf : fieldFamily op = 0xE)
    (h : decodeFamilyE op = some i) : encodeWord i = op := by
  unfold decodeFamilyE at h
  split at h
  case h_3 => exact nomatch h
  all_goals
    next hnn =>
    obtain rfl := Option.some.inj h
    exact (word_eq_wordI_fixed hf hnn).symm

theorem encodeWord_of_decodeFamilyF {op : Word} {i : Instr} (hf : fieldFamily op = 0xF)
    (h : decodeFamilyF op = some i) : encodeWord i = op := by
  unfold decodeFamilyF at h
  split at h
  case h_10 => exact nomatch h
  all_goals
    next hnn =>
    obtain rfl := Option.some.inj h
    exact (word_eq_wordI_fixed hf hnn).symm

/-- Settles O2: a word is its family and its fields, and the instruction decoded from them has them all. -/
theorem encodeOfDecodeIsTheWord : Obligations.EncodeOfDecodeIsTheWord := by
  intro op i h
  unfold decodeWord at h
  split at h
  case h_1 => exact encodeWord_of_decodeFamily0 h
  case h_9 hf => exact encodeWord_of_decodeFamily8 (eq_ofNat_of_toNat hf) h
  case h_15 hf => exact encodeWord_of_decodeFamilyE (eq_ofNat_of_toNat hf) h
  case h_16 hf => exact encodeWord_of_decodeFamilyF (eq_ofNat_of_toNat hf) h
  case h_17 => exact nomatch h
  case h_6 hf | h_10 hf =>
    split at h
    · next hn =>
      obtain rfl := Option.some.inj h
      exact (word_eq_wordR_fixed (eq_ofNat_of_toNat hf) (congrArg Fin.val hn)).symm
    · exact nomatch h
  case h_2 hf | h_3 hf | h_11 hf | h_12 hf =>
    obtain rfl := Option.some.inj h
    exact (word_eq_wordA (eq_ofNat_of_toNat hf)).symm
  case h_4 hf | h_5 hf | h_7 hf | h_8 hf | h_13 hf =>
    obtain rfl := Option.some.inj h
    exact (word_eq_wordI (eq_ofNat_of_toNat hf)).symm
  case h_14 hf =>
    obtain rfl := Option.some.inj h
    exact (word_eq_wordR (eq_ofNat_of_toNat hf)).symm

/-! ### The rows of the opcode map -/

/-- The fields that a mask keeps are those of the pattern. -/
theorem fieldFamily_of_and_F000 {op : Word} {f : BitVec 4} (h : op &&& 0xF000#16 = wordA f 0) : fieldFamily op = f := by
  apply BitVec.eq_of_toNat_eq
  have e := congrArg BitVec.toNat h
  rw [and_F000_toNat, wordA_toNat] at e
  have := f.isLt
  rw [fieldFamily_toNat]
  simp only [BitVec.ofNat_eq_ofNat, BitVec.toNat_ofNat] at e
  omega

theorem fields_of_and_F00F {op : Word} {f : BitVec 4} {n : Fin 16} (h : op &&& 0xF00F#16 = wordR f 0 0 n) :
    fieldFamily op = f ∧ fieldN op = n := by
  have e := congrArg BitVec.toNat h
  rw [and_F00F_toNat, wordR_toNat] at e
  have := f.isLt
  simp only [Fin.val_zero] at e
  refine ⟨BitVec.eq_of_toNat_eq ?_, Fin.ext ?_⟩
  · rw [fieldFamily_toNat]
    omega
  · rw [fieldN_val]
    omega

theorem fields_of_and_F0FF {op : Word} {f : BitVec 4} {nn : Byte} (h : op &&& 0xF0FF#16 = wordI f 0 nn) :
    fieldFamily op = f ∧ fieldNN op = nn := by
  have e := congrArg BitVec.toNat h
  rw [and_F0FF_toNat, wordI_toNat] at e
  have := f.isLt
  have := nn.isLt
  simp only [Fin.val_zero] at e
  refine ⟨BitVec.eq_of_toNat_eq ?_, BitVec.eq_of_toNat_eq ?_⟩
  · rw [fieldFamily_toNat]
    omega
  · rw [fieldNN_toNat]
    omega

/-- Every word that selects the row is the word of an instruction of the row. -/
def RowHasWords (r : OpcodeRow) : Prop := ∀ op : Word, r.selects op = true → ∃ i : Instr, i.row = r ∧ encodeWord i = op

theorem selects_iff (r : OpcodeRow) (op : Word) : r.selects op = true ↔ op &&& r.mask = r.pattern := by
  rw [OpcodeRow.selects, beq_iff_eq]

theorem rowHasWords_fixed (i : Instr) (hmask : i.row.mask = 0xFFFF#16) (hpat : i.row.pattern = encodeWord i) :
    RowHasWords i.row := by
  intro op h
  rw [selects_iff, hmask, and_FFFF, hpat] at h
  exact ⟨i, rfl, h.symm⟩

theorem rowHasWords_A {r : OpcodeRow} {f : BitVec 4} (mk : Addr12 → Instr) (hmask : r.mask = 0xF000#16)
    (hpat : r.pattern = wordA f 0) (hrow : ∀ nnn, (mk nnn).row = r) (hword : ∀ nnn, encodeWord (mk nnn) = wordA f nnn) :
    RowHasWords r := by
  intro op h
  rw [selects_iff, hmask, hpat] at h
  exact ⟨mk (fieldNNN op), hrow _, (hword _).trans (word_eq_wordA (fieldFamily_of_and_F000 h)).symm⟩

theorem rowHasWords_I {r : OpcodeRow} {f : BitVec 4} (mk : Reg → Byte → Instr) (hmask : r.mask = 0xF000#16)
    (hpat : r.pattern = wordA f 0) (hrow : ∀ x nn, (mk x nn).row = r)
    (hword : ∀ x nn, encodeWord (mk x nn) = wordI f x nn) : RowHasWords r := by
  intro op h
  rw [selects_iff, hmask, hpat] at h
  exact ⟨mk (fieldX op) (fieldNN op), hrow _ _, (hword _ _).trans (word_eq_wordI (fieldFamily_of_and_F000 h)).symm⟩

theorem rowHasWords_D {r : OpcodeRow} {f : BitVec 4} (mk : Fin 16 → Fin 16 → Fin 16 → Instr)
    (hmask : r.mask = 0xF000#16) (hpat : r.pattern = wordA f 0) (hrow : ∀ x y n, (mk x y n).row = r)
    (hword : ∀ x y n, encodeWord (mk x y n) = wordR f x y n) : RowHasWords r := by
  intro op h
  rw [selects_iff, hmask, hpat] at h
  exact ⟨mk (fieldX op) (fieldY op) (fieldN op), hrow _ _ _,
    (hword _ _ _).trans (word_eq_wordR (fieldFamily_of_and_F000 h)).symm⟩

theorem rowHasWords_R {r : OpcodeRow} {f : BitVec 4} {n : Fin 16} (mk : Reg → Reg → Instr)
    (hmask : r.mask = 0xF00F#16) (hpat : r.pattern = wordR f 0 0 n) (hrow : ∀ x y, (mk x y).row = r)
    (hword : ∀ x y, encodeWord (mk x y) = wordR f x y n) : RowHasWords r := by
  intro op h
  rw [selects_iff, hmask, hpat] at h
  obtain ⟨hf, hn⟩ := fields_of_and_F00F h
  exact ⟨mk (fieldX op) (fieldY op), hrow _ _, (hword _ _).trans (hn ▸ (word_eq_wordR hf).symm)⟩

theorem rowHasWords_X {r : OpcodeRow} {f : BitVec 4} {nn : Byte} (mk : Reg → Instr) (hmask : r.mask = 0xF0FF#16)
    (hpat : r.pattern = wordI f 0 nn) (hrow : ∀ x, (mk x).row = r) (hword : ∀ x, encodeWord (mk x) = wordI f x nn) :
    RowHasWords r := by
  intro op h
  rw [selects_iff, hmask, hpat] at h
  obtain ⟨hf, hnn⟩ := fields_of_and_F0FF h
  exact ⟨mk (fieldX op), hrow _, (hword _).trans (hnn ▸ (word_eq_wordI hf).symm)⟩

theorem opcodeRows0to7_haveWords : ∀ r ∈ opcodeRows0to7, RowHasWords r := by
  simp only [opcodeRows0to7, List.forall_mem_cons]
  exact ⟨rowHasWords_fixed .cls rfl rfl,
    rowHasWords_fixed .ret rfl rfl,
    rowHasWords_A (f := 0x1) .jp rfl rfl (fun _ => rfl) (fun _ => rfl),
    rowHasWords_A (f := 0x2) .call rfl rfl (fun _ => rfl) (fun _ => rfl),
    rowHasWords_I (f := 0x3) .sei rfl rfl (fun _ _ => rfl) (fun _ _ => rfl),
    rowHasWords_I (f := 0x4) .snei rfl rfl (fun _ _ => rfl) (fun _ _ => rfl),
    rowHasWords_R (f := 0x5) (n := 0x0) .ser rfl rfl (fun _ _ => rfl) (fun _ _ => rfl),
    rowHasWords_I (f := 0x6) .ldi rfl rfl (fun _ _ => rfl) (fun _ _ => rfl),
    rowHasWords_I (f := 0x7) .addi rfl rfl (fun _ _ => rfl) (fun _ _ => rfl),
    fun _ h => nomatch h⟩

theorem opcodeRows8_haveWords : ∀ r ∈ opcodeRows8, RowHasWords r := by
  simp only [opcodeRows8, List.forall_mem_cons]
  exact ⟨rowHasWords_R (f := 0x8) (n := 0x0) .mov rfl rfl (fun _ _ => rfl) (fun _ _ => rfl),
    rowHasWords_R (f := 0x8) (n := 0x1) .or rfl rfl (fun _ _ => rfl) (fun _ _ => rfl),
    rowHasWords_R (f := 0x8) (n := 0x2) .and rfl rfl (fun _ _ => rfl) (fun _ _ => rfl),
    rowHasWords_R (f := 0x8) (n := 0x3) .xor rfl rfl (fun _ _ => rfl) (fun _ _ => rfl),
    rowHasWords_R (f := 0x8) (n := 0x4) .add rfl rfl (fun _ _ => rfl) (fun _ _ => rfl),
    rowHasWords_R (f := 0x8) (n := 0x5) .sub rfl rfl (fun _ _ => rfl) (fun _ _ => rfl),
    rowHasWords_R (f := 0x8) (n := 0x6) .shr rfl rfl (fun _ _ => rfl) (fun _ _ => rfl),
    rowHasWords_R (f := 0x8) (n := 0x7) .subn rfl rfl (fun _ _ => rfl) (fun _ _ => rfl),
    rowHasWords_R (f := 0x8) (n := 0xE) .shl rfl rfl (fun _ _ => rfl) (fun _ _ => rfl),
    fun _ h => nomatch h⟩

theorem opcodeRows9toE_haveWords : ∀ r ∈ opcodeRows9toE, RowHasWords r := by
  simp only [opcodeRows9toE, List.forall_mem_cons]
  exact ⟨rowHasWords_R (f := 0x9) (n := 0x0) .sner rfl rfl (fun _ _ => rfl) (fun _ _ => rfl),
    rowHasWords_A (f := 0xA) .ldidx rfl rfl (fun _ => rfl) (fun _ => rfl),
    rowHasWords_A (f := 0xB) .jpv0 rfl rfl (fun _ => rfl) (fun _ => rfl),
    rowHasWords_I (f := 0xC) .rnd rfl rfl (fun _ _ => rfl) (fun _ _ => rfl),
    rowHasWords_D (f := 0xD) .drw rfl rfl (fun _ _ _ => rfl) (fun _ _ _ => rfl),
    rowHasWords_X (f := 0xE) (nn := 0x9E) .skp rfl rfl (fun _ => rfl) (fun _ => rfl),
    rowHasWords_X (f := 0xE) (nn := 0xA1) .sknp rfl rfl (fun _ => rfl) (fun _ => rfl),
    fun _ h => nomatch h⟩

theorem opcodeRowsF_haveWords : ∀ r ∈ opcodeRowsF, RowHasWords r := by
  simp only [opcodeRowsF, List.forall_mem_cons]
  exact ⟨rowHasWords_X (f := 0xF) (nn := 0x07) .lddt rfl rfl (fun _ => rfl) (fun _ => rfl),
    rowHasWords_X (f := 0xF) (nn := 0x0A) .ldk rfl rfl (fun _ => rfl) (fun _ => rfl),
    rowHasWords_X (f := 0xF) (nn := 0x15) .stdt rfl rfl (fun _ => rfl) (fun _ => rfl),
    rowHasWords_X (f := 0xF) (nn := 0x18) .stst rfl rfl (fun _ => rfl) (fun _ => rfl),
    rowHasWords_X (f := 0xF) (nn := 0x1E) .addidx rfl rfl (fun _ => rfl) (fun _ => rfl),
    rowHasWords_X (f := 0xF) (nn := 0x29) .ldfont rfl rfl (fun _ => rfl) (fun _ => rfl),
    rowHasWords_X (f := 0xF) (nn := 0x33) .bcd rfl rfl (fun _ => rfl) (fun _ => rfl),
    rowHasWords_X (f := 0xF) (nn := 0x55) .stm rfl rfl (fun _ => rfl) (fun _ => rfl),
    rowHasWords_X (f := 0xF) (nn := 0x65) .ldm rfl rfl (fun _ => rfl) (fun _ => rfl),
    fun _ h => nomatch h⟩

theorem opcodeRows_haveWords : ∀ r ∈ opcodeRows, RowHasWords r := by
  simp only [opcodeRows, List.forall_mem_append]
  exact ⟨⟨⟨opcodeRows0to7_haveWords, opcodeRows8_haveWords⟩, opcodeRows9toE_haveWords⟩, opcodeRowsF_haveWords⟩

/-- A word that selects a row decodes to an instruction of that row. -/
theorem decodeWord_of_selects {op : Word} {r : OpcodeRow} (hr : r ∈ opcodeRows) (h : r.selects op = true) :
    ∃ i : Instr, i.row = r ∧ decodeWord op = some i := by
  obtain ⟨i, hrow, rfl⟩ := opcodeRows_haveWords r hr op h
  exact ⟨i, hrow, decodeWord_encodeWord i⟩

/-- A word that decodes selects the row of its instruction. -/
theorem row_selects_of_decodeWord {op : Word} {i : Instr} (h : decodeWord op = some i) :
    i.row ∈ opcodeRows ∧ i.row.selects op = true := by
  obtain ⟨hselects, hmem⟩ := Laws.EncodesRow.every i
  rw [encodeOfDecodeIsTheWord op i h] at hselects
  exact ⟨hmem, (selects_iff i.row op).mpr hselects⟩

/-- Settles O3: a row selects exactly the words of its instructions, and a word has one instruction, so one row. -/
theorem decodingIsTheTableLookup : Obligations.DecodingIsTheTableLookup := by
  refine ⟨fun op => ⟨fun h => ?_, ?_⟩, fun op i h => row_selects_of_decodeWord h, fun op r q hr hq hselr hselq => ?_⟩
  · obtain ⟨i, hi⟩ := Option.isSome_iff_exists.mp h
    exact ⟨i.row, row_selects_of_decodeWord hi⟩
  · rintro ⟨r, hr, hsel⟩
    obtain ⟨i, -, hi⟩ := decodeWord_of_selects hr hsel
    exact Option.isSome_iff_exists.mpr ⟨i, hi⟩
  · obtain ⟨i, rfl, hi⟩ := decodeWord_of_selects hr hselr
    obtain ⟨j, rfl, hj⟩ := decodeWord_of_selects hq hselq
    rw [Option.some.inj (hi.symm.trans hj)]

/-! ### The words of no row -/

theorem decodeFamily0_eq_none (op : Word) : decodeFamily0 op = none ↔ op ≠ 0x00E0 ∧ op ≠ 0x00EE := by
  unfold decodeFamily0
  split
  · next h => simp [h]
  · next h0 =>
    split
    · next h => simp [h]
    · next h => exact ⟨fun _ => ⟨h0, h⟩, fun _ => rfl⟩

theorem decodeFamily8_eq_none (op : Word) :
    decodeFamily8 op = none ↔ fieldN op ∈ ([0x8, 0x9, 0xA, 0xB, 0xC, 0xD, 0xF] : List (Fin 16)) := by
  unfold decodeFamily8
  generalize fieldN op = n
  fin_cases n <;> simp

theorem decodeFamilyE_eq_none (op : Word) : decodeFamilyE op = none ↔ fieldNN op ∉ ([0x9E, 0xA1] : List Byte) := by
  unfold decodeFamilyE
  simp only [List.mem_cons, List.not_mem_nil, or_false, BitVec.toNat_eq]
  split
  case h_3 => simp_all only [imp_false, BitVec.reduceToNat, or_self, not_false_eq_true]
  all_goals
    next h => simp [h]

theorem decodeFamilyF_eq_none (op : Word) : decodeFamilyF op = none ↔
    fieldNN op ∉ ([0x07, 0x0A, 0x15, 0x18, 0x1E, 0x29, 0x33, 0x55, 0x65] : List Byte) := by
  unfold decodeFamilyF
  simp only [List.mem_cons, List.not_mem_nil, or_false, BitVec.toNat_eq]
  split
  case h_10 => simp_all only [imp_false, BitVec.reduceToNat, or_self, not_false_eq_true]
  all_goals
    next h => simp [h]

/-- Settles O4: the family fixes which disjunct can hold, and there the branch of the decoder says when it does. -/
theorem unsupportedWordsByFamily : Obligations.UnsupportedWordsByFamily := by
  intro op
  unfold decodeWord
  split
  case h_17 =>
    have hlt := (fieldFamily op).isLt
    simp only [imp_false] at *
    exfalso
    omega
  all_goals
    next hf =>
    rw [eq_ofNat_of_toNat hf]
    simp [decodeFamily0_eq_none, decodeFamily8_eq_none, decodeFamilyE_eq_none, decodeFamilyF_eq_none]

end Sys2Proof.Machine
end

section
/-! PROOFS. Frames once for all: the components taken from another state, and that a change of some components alone leaves all
others reading as before. -/

namespace Sys2Proof.Machine

/-! ### The components taken from another state -/

/-- The state that holds the listed components of `t` and all others of `s`. -/
def State.withParts (s t : State) (ps : List Part) : State :=
  { V := if .V ∈ ps then t.V else s.V
    PC := if .PC ∈ ps then t.PC else s.PC
    I := if .I ∈ ps then t.I else s.I
    STACK := if .STACK ∈ ps then t.STACK else s.STACK
    DT := if .DT ∈ ps then t.DT else s.DT
    ST := if .ST ∈ ps then t.ST else s.ST
    MEM := if .MEM ∈ ps then t.MEM else s.MEM
    DISP := if .DISP ∈ ps then t.DISP else s.DISP
    KEYS := if .KEYS ∈ ps then t.KEYS else s.KEYS
    MODE := if .MODE ∈ ps then t.MODE else s.MODE
    RUN := if .RUN ∈ ps then t.RUN else s.RUN
    FRAME_READY := if .FRAME_READY ∈ ps then t.FRAME_READY else s.FRAME_READY
    KEYWAIT := if .KEYWAIT ∈ ps then t.KEYWAIT else s.KEYWAIT
    PHASE := if .PHASE ∈ ps then t.PHASE else s.PHASE
    IR := if .IR ∈ ps then t.IR else s.IR
    REPORT := if .REPORT ∈ ps then t.REPORT else s.REPORT
    cfg := if .cfg ∈ ps then t.cfg else s.cfg
    resetDone := if .resetDone ∈ ps then t.resetDone else s.resetDone
    draws := if .draws ∈ ps then t.draws else s.draws
    schedule := if .schedule ∈ ps then t.schedule else s.schedule
    hostOps := if .hostOps ∈ ps then t.hostOps else s.hostOps }

/-- A component is the same data in two states. -/
def Part.equal (s t : State) : Part → Prop
  | .V => t.V = s.V
  | .PC => t.PC = s.PC
  | .I => t.I = s.I
  | .STACK => t.STACK = s.STACK
  | .DT => t.DT = s.DT
  | .ST => t.ST = s.ST
  | .MEM => t.MEM = s.MEM
  | .DISP => t.DISP = s.DISP
  | .KEYS => t.KEYS = s.KEYS
  | .MODE => t.MODE = s.MODE
  | .RUN => t.RUN = s.RUN
  | .FRAME_READY => t.FRAME_READY = s.FRAME_READY
  | .KEYWAIT => t.KEYWAIT = s.KEYWAIT
  | .PHASE => t.PHASE = s.PHASE
  | .IR => t.IR = s.IR
  | .REPORT => t.REPORT = s.REPORT
  | .cfg => t.cfg = s.cfg
  | .resetDone => t.resetDone = s.resetDone
  | .draws => t.draws = s.draws
  | .schedule => t.schedule = s.schedule
  | .hostOps => t.hostOps = s.hostOps

/-- A component that is not taken from `t` is the data of `s`. -/
theorem equal_withParts (s t : State) {ps : List Part} {p : Part} (hp : p ∉ ps) : p.equal s (s.withParts t ps) := by
  cases p <;> exact if_neg hp

/-! ### From the same data to the same readings -/

/-- A component that is the same data reads the same; memory reads through the parameters too. -/
theorem Part.same_of_equal {s t : State} {p : Part} (hcfg : t.cfg = s.cfg) (h : p.equal s t) : p.same s t := by
  cases p with
  | V => exact fun r => congrArg (fun v : Vector Byte 16 => v[r.val]) h
  | MEM =>
    have hm : t.MEM = s.MEM := h
    exact fun a => by rw [State.memRead, hcfg, hm, State.memRead]
  | DISP => exact fun row col => congrArg (fun d : Display => d.pixel row col) h
  | KEYS => exact fun k => congrArg (fun v : Vector Bool 16 => v[k.val]) h
  | _ => exact h

/-- A change of the listed components alone leaves all others reading as before. -/
theorem unchangedExcept_of_withParts {s t : State} {ps : List Part} (hcfg : .cfg ∉ ps) (h : t = s.withParts t ps) :
    UnchangedExcept ps s t := by
  intro p hp
  rw [h]
  exact Part.same_of_equal (equal_withParts s t hcfg) (equal_withParts s t hp)

theorem unchangedExcept_refl (ps : List Part) (s : State) : UnchangedExcept ps s s :=
  (unchangedExcept_of_withParts (ps := []) (by decide) rfl).mono (List.nil_subset ps)

end Sys2Proof.Machine
end

section
/-! PROOFS. The key instructions (44_keys_timers.md R150 to R152): the key an instruction tests or takes, what Fx0A does in each
state of the keys and the latch, and from these the instructions one by one. -/

namespace Sys2Proof.Machine

/-! ### Frames -/

theorem unchangedExcept_drawn (s : State) : UnchangedExcept [.draws] s s.drawn :=
  unchangedExcept_of_withParts (by decide) rfl

theorem unchangedExcept_setKeyWait (s : State) (k : Option Key) : UnchangedExcept [.KEYWAIT] s (s.setKeyWait k) :=
  unchangedExcept_of_withParts (by decide) rfl

/-- Back to the instruction: PC - 2 and nothing else (R152). -/
theorem rewindPC_effect (s : State) : s.rewindPC.PC = s.PC - 2 ∧ UnchangedExcept [.PC] s s.rewindPC :=
  ⟨rewindPC_PC s, unchangedExcept_setPC s (s.PC - 2)⟩

theorem RegsExcept.reg_eq {x r : Reg} {s t : State} (h : RegsExcept [x] s t) (hr : r ≠ x) : t.reg r = s.reg r :=
  h r fun hmem => hr (List.mem_singleton.mp hmem)

/-! ### The key an instruction tests or takes -/

/-- The key tested is the low nibble of Vx (R150). -/
theorem keyOperand_eq {s : State} {x : Reg} {k : Key} (h : k.val = (s.reg x).toNat % 16) : s.keyOperand x = k := by
  have hslice : (s.keyOperand x).val = (s.reg x).toNat % 16 := by
    refine (slice_toNat (s.reg x) 0 4).trans ?_
    rw [Nat.pow_zero, Nat.div_one]
    rfl
  exact Fin.ext (hslice.trans h.symm)

theorem keyByte_toNat (k : Key) : (keyByte k).toNat = k.val := by
  rw [keyByte, BitVec.toNat_ofNat]
  omega

/-- When a key is pressed, `KEY_SELECT` takes one, the lowest under the default. -/
theorem exists_selectKey {s : State} (h : ∃ k, s.keyDown k = true) : ∃ k, s.selectKey = some k ∧ TakesKey s k := by
  obtain ⟨j, hj⟩ := h
  have hsome : s.selectKey ≠ none := fun hnone => by
    rw [(selectKey_eq_none s).mp hnone j] at hj
    exact nomatch hj
  obtain ⟨k, hk⟩ := Option.ne_none_iff_exists'.mp hsome
  exact ⟨k, hk, keyDown_of_selectKey s hk, fun hc => selectKey_lowest s hc hk⟩

/-! ### Fx0A case by case -/

theorem exec_ldk_not_legacy {s : State} (x : Reg) (h : s.MODE ≠ .legacy) :
    exec (.ldk x) s = .next (s.awaitPress x) :=
  congrArg Host.Outcome.next (if_neg (mt (isLegacy_iff s).mp h))

theorem exec_ldk_legacy {s : State} (x : Reg) (h : s.MODE = .legacy) :
    exec (.ldk x) s = .next (s.awaitPressRelease x) :=
  congrArg Host.Outcome.next (if_pos ((isLegacy_iff s).mpr h))

theorem awaitPress_none {s : State} (x : Reg) (h : s.selectKey = none) : s.awaitPress x = s.rewindPC := by
  rw [State.awaitPress, h]

theorem awaitPress_some {s : State} (x : Reg) {k : Key} (h : s.selectKey = some k) :
    s.awaitPress x = (s.setReg x (keyByte k)).drawn := by
  rw [State.awaitPress, h]

theorem awaitPressRelease_none {s : State} (x : Reg) (hw : s.KEYWAIT = none) (h : s.selectKey = none) :
    s.awaitPressRelease x = s.rewindPC := by
  rw [State.awaitPressRelease, hw, h]

theorem awaitPressRelease_latch {s : State} (x : Reg) {k : Key} (hw : s.KEYWAIT = none) (h : s.selectKey = some k) :
    s.awaitPressRelease x = ((s.setKeyWait (some k)).drawn).rewindPC := by
  rw [State.awaitPressRelease, hw, h]

theorem awaitPressRelease_pressed {s : State} (x : Reg) {k : Key} (hw : s.KEYWAIT = some k) (h : s.keyDown k = true) :
    s.awaitPressRelease x = s.rewindPC := by
  simp only [State.awaitPressRelease, hw, h, if_true]

theorem awaitPressRelease_released {s : State} (x : Reg) {k : Key} (hw : s.KEYWAIT = some k)
    (h : s.keyDown k = false) : s.awaitPressRelease x = (s.setReg x (keyByte k)).setKeyWait none := by
  simp only [State.awaitPressRelease, hw, h, Bool.false_eq_true, if_false]

/-- Fx0A writes no register but Vx, in every mode. -/
theorem regsExcept_exec_ldk {s t : State} {x : Reg} (h : exec (.ldk x) s = .next t) : RegsExcept [x] s t := by
  obtain rfl := Host.Outcome.next.inj h
  split
  · unfold State.awaitPressRelease
    split
    · split
      · exact fun _ _ => rfl
      · exact fun _ _ => rfl
    · split
      · exact fun _ _ => rfl
      · exact regsExcept_setReg s x _
  · unfold State.awaitPress
    split
    · exact fun _ _ => rfl
    · exact regsExcept_setReg s x _

/-! ### The instructions -/

theorem exec_skp (x : Reg) (s : State) : exec (.skp x) s = .next (s.skipIf (s.keyDown (s.keyOperand x))) := rfl

theorem exec_sknp (x : Reg) (s : State) : exec (.sknp x) s = .next (s.skipIf (!s.keyDown (s.keyOperand x))) := rfl

/-- Settles O37: each of the two is a conditional skip on the level of the key tested. -/
theorem keySkips : Obligations.KeySkips := by
  intro s x k hk
  have hpressed := skipDone_skipIf s (s.keyDown k = true)
  have hreleased := skipDone_skipIf s (s.keyDown k = false)
  rw [Bool.decide_eq_true] at hpressed
  rw [Bool.decide_eq_false] at hreleased
  rw [exec_skp, exec_sknp, keyOperand_eq hk]
  exact ⟨⟨decodeWord_encodeWord (.skp x), _, rfl, hpressed⟩, ⟨decodeWord_encodeWord (.sknp x), _, rfl, hreleased⟩⟩

/-- Settles O38: with no key selected the move is the rewind alone, otherwise one write of Vx and one draw. -/
theorem awaitKeyOutsideLegacy : Obligations.AwaitKeyOutsideLegacy := by
  intro s x hmode
  refine ⟨decodeWord_encodeWord (.ldk x), _, exec_ldk_not_legacy x hmode, fun hup => ?_, fun hdown => ?_⟩
  · rw [awaitPress_none x ((selectKey_eq_none s).mpr hup)]
    exact rewindPC_effect s
  · obtain ⟨k, hk, htakes⟩ := exists_selectKey hdown
    obtain ⟨hx, hregs, hframe⟩ := setReg_effect s x (keyByte k)
    rw [awaitPress_some x hk]
    refine ⟨k, htakes, ?_, hregs, hframe.trans (unchangedExcept_drawn _)⟩
    rw [reg_drawn, hx, keyByte_toNat]

/-- Settles O39: of the four cases two are the rewind alone, one latches and rewinds, and one writes Vx and the latch. -/
theorem awaitKeyInLegacy : Obligations.AwaitKeyInLegacy := by
  intro s x hmode
  refine ⟨_, exec_ldk_legacy x hmode, fun hw hup => ?_, fun hw hdown => ?_, fun k hw hk => ?_, fun k hw hk => ?_⟩
  · rw [awaitPressRelease_none x hw ((selectKey_eq_none s).mpr hup)]
    exact rewindPC_effect s
  · obtain ⟨k, hk, htakes⟩ := exists_selectKey hdown
    have hframe := ((unchangedExcept_setKeyWait s (some k)).trans (unchangedExcept_drawn _)).trans
      (rewindPC_effect (s.setKeyWait (some k)).drawn).2
    rw [awaitPressRelease_latch x hw hk]
    exact ⟨k, htakes, rfl, rfl, hframe.mono (by decide)⟩
  · rw [awaitPressRelease_pressed x hw hk]
    exact rewindPC_effect s
  · obtain ⟨hx, hregs, hframe⟩ := setReg_effect s x (keyByte k)
    rw [awaitPressRelease_released x hw hk]
    refine ⟨?_, rfl, hregs, hframe.trans (unchangedExcept_setKeyWait _ none)⟩
    rw [reg_setKeyWait, hx, keyByte_toNat]

end Sys2Proof.Machine
end

section
/-! PROOFS. The sprite instruction (43_display.md R141): the draw in closed form and its frame, the two steps of a held draw, and
what ends the wait between them: everything a turn of the HOST can be is said here, for the sections after it too. -/

namespace Sys2Proof.Machine

/-! ### Frames -/

theorem unchangedExcept_holdDraw (s : State) (op : Word) : UnchangedExcept [.IR, .PHASE] s (s.holdDraw op) :=
  unchangedExcept_of_withParts (by decide) rfl

theorem unchangedExcept_draw (s : State) (x y n : Fin 16) : UnchangedExcept [.V, .DISP] s (s.draw x y n) :=
  ((unchangedExcept_setDisp s _).trans (unchangedExcept_V (setReg_eq _ VF _))).mono (by decide)

theorem unchangedExcept_FRAME_READY (s : State) (b : Bool) : UnchangedExcept [.FRAME_READY] s { s with FRAME_READY := b } :=
  unchangedExcept_of_withParts (by decide) rfl

theorem unchangedExcept_PHASE (s : State) (p : Phase) : UnchangedExcept [.PHASE] s { s with PHASE := p } :=
  unchangedExcept_of_withParts (by decide) rfl

/-! ### The draw -/

/-- DRAW does what R141 says: XOR with clipping, VF the collision. -/
theorem drawn_draw (s : State) (x y n : Fin 16) : Drawn x y n s (s.draw x y n) := by
  have hflag : (s.draw x y n).reg VF = flagByte (s.drawing x y n).hit := by rw [reg_draw, if_pos rfl]
  refine ⟨fun row col => ?_, fun hhit => ?_, fun hmiss => ?_, fun r hr => ?_⟩
  · rw [draw_DISP, pixel_drawing]
  · rw [hflag, (hit_drawing s x y n).mpr hhit]
    rfl
  · rw [hflag, Bool.eq_false_iff.mpr (mt (hit_drawing s x y n).mp hmiss)]
    rfl
  · rw [reg_draw, if_neg (List.ne_of_not_mem_cons hr)]

/-- After a draw VF tells whether there was a collision. -/
theorem Drawn.flag_iff {x y n : Fin 16} {s t : State} (h : Drawn x y n s t) : t.reg VF = 1 ↔ s.spriteHits x y n := by
  obtain ⟨-, hhit, hmiss, -⟩ := h
  refine ⟨fun hflag => ?_, hhit⟩
  by_contra hno
  rw [hmiss hno] at hflag
  exact absurd hflag (by decide)

theorem exec_drw_not_legacy {s : State} (x y n : Fin 16) (h : s.MODE ≠ .legacy) :
    exec (.drw x y n) s = .next (s.draw x y n) :=
  if_neg (mt (isLegacy_iff s).mp h)

theorem exec_drw_legacy {s : State} (x y n : Fin 16) (h : s.MODE = .legacy) :
    exec (.drw x y n) s = .next (s.holdDraw (wordR 0xD x y n)) :=
  if_pos ((isLegacy_iff s).mpr h)

/-- Settles O32: outside LEGACY mode the instruction is the draw. -/
theorem drawSpriteOutsideLegacy : Obligations.DrawSpriteOutsideLegacy := by
  intro s x y n hmode
  exact ⟨decodeWord_encodeWord (.drw x y n), _, exec_drw_not_legacy x y n hmode, drawn_draw s x y n,
    unchangedExcept_draw s x y n⟩

/-- Settles O33: in LEGACY mode the instruction is the hold of its word. -/
theorem legacyDrawIsHeld : Obligations.LegacyDrawIsHeld := by
  intro s x y n hmode
  exact ⟨_, exec_drw_legacy x y n hmode, rfl, rfl, unchangedExcept_holdDraw s _⟩

/-- Settles O35: the second sprite is the first, since no coordinate was written, and its bits cancel those of the first; it
hits where the first lit a pixel. -/
theorem drawingTwiceRestoresDisplay : Obligations.DrawingTwiceRestoresDisplay := by
  intro s t x y n hmode hx hy h
  obtain rfl := Host.Outcome.next.inj ((exec_drw_not_legacy x y n hmode).symm.trans h)
  have hframe := unchangedExcept_draw s x y n
  have hfirst := drawn_draw s x y n
  have hsecond := drawn_draw (s.draw x y n) x y n
  obtain ⟨hpixel, -, -, hregs⟩ := hfirst
  have hsprite := spriteBit_congr (hregs.reg_eq hx) (hregs.reg_eq hy)
    (hframe .I (by decide)) (hframe .MEM (by decide)) n
  have hflag := hsecond.flag_iff
  obtain ⟨hpixel', -⟩ := hsecond
  refine ⟨_, exec_drw_not_legacy x y n hmode, fun row col => ?_, hflag.trans ?_⟩
  · rw [hpixel', hpixel, hsprite, Bool.xor_assoc, Bool.xor_self, Bool.xor_false]
  · refine exists_congr fun row => exists_congr fun col => ?_
    rw [hsprite, hpixel]
    refine and_congr_right fun hbit => ?_
    rw [hbit, Bool.xor_true, Bool.not_eq_true_eq_eq_false]

/-! ### The held draw -/

/-- The second step of a held draw draws the sprite of IR: frame-ready and PHASE are no part of it. -/
theorem drawn_completeDraw (s : State) : Drawn (fieldX s.IR) (fieldY s.IR) (fieldN s.IR) s s.completeDraw :=
  drawn_draw { s with FRAME_READY := false } _ _ _

theorem unchangedExcept_completeDraw (s : State) :
    UnchangedExcept [.V, .DISP, .FRAME_READY, .PHASE] s s.completeDraw := by
  have hconsume := unchangedExcept_FRAME_READY s false
  have hdraw := unchangedExcept_draw { s with FRAME_READY := false } (fieldX s.IR) (fieldY s.IR) (fieldN s.IR)
  have hphase := unchangedExcept_PHASE (State.draw { s with FRAME_READY := false } (fieldX s.IR) (fieldY s.IR) (fieldN s.IR))
    .fetch
  exact ((hconsume.trans hdraw).trans hphase).mono (by decide)

/-- Without frame-ready a held draw waits. -/
theorem coreTurn_waits {s : State} (hr : s.RUN = .running) (hp : s.PHASE = .drawWait) (hf : s.FRAME_READY = false) :
    s.coreTurn = .next s := by
  rw [coreTurn_drawWait hr hp, if_neg (Bool.eq_false_iff.mp hf)]

/-- Settles O34: the CORE's turn in a held draw is the completion when frame-ready is set and nothing otherwise. -/
theorem heldDrawCompletesOnFrameReady : Obligations.HeldDrawCompletesOnFrameReady := by
  intro s hr hp
  refine ⟨fun hf => ⟨s.completeDraw, ?_, rfl, rfl, drawn_completeDraw s, unchangedExcept_completeDraw s⟩,
    coreTurn_waits hr hp⟩
  rw [coreTurn_drawWait hr hp, if_pos hf]

/-- Everything an answered operation of the HOST can be, with the condition under which it is answered. -/
theorem hostAttempt_cases {s t : State} {op : HostOp} {rest : List HostOp} (h : s.hostAttempt rest op = .next t) :
    (∃ mode, op = .reset mode ∧ s.RUN = .stopped ∧ t = { s.hostReset mode with hostOps := rest }) ∨
    (∃ bytes, op = .loadRom bytes ∧ s.hostReady = true ∧ t = { s.hostLoadRom bytes with hostOps := rest }) ∨
    (op = .start ∧ s.hostReady = true ∧ t = { s.hostStart with hostOps := rest }) ∨
    (op = .stop ∧ s.RUN = .running ∧ s.PHASE = .fetch ∧ t = { s.hostStop with hostOps := rest }) ∨
    (op = .stop ∧ s.RUN = .running ∧ s.PHASE ≠ .fetch ∧ t = s) := by
  cases op with
  | reset mode =>
    simp only [State.hostAttempt] at h
    split at h
    · next hr => exact .inl ⟨mode, rfl, hr, (Host.Outcome.next.inj h).symm⟩
    · exact nomatch h
  | loadRom bytes =>
    simp only [State.hostAttempt] at h
    split at h
    · next hready => exact .inr (.inl ⟨bytes, rfl, hready, (Host.Outcome.next.inj h).symm⟩)
    · exact nomatch h
  | start =>
    simp only [State.hostAttempt] at h
    split at h
    · next hready => exact .inr (.inr (.inl ⟨rfl, hready, (Host.Outcome.next.inj h).symm⟩))
    · exact nomatch h
  | stop =>
    simp only [State.hostAttempt] at h
    split at h
    · next hr =>
      split at h
      · next hp => exact .inr (.inr (.inr (.inl ⟨rfl, hr, hp, (Host.Outcome.next.inj h).symm⟩)))
      · next hp => exact .inr (.inr (.inr (.inr ⟨rfl, hr, hp, (Host.Outcome.next.inj h).symm⟩)))
    · exact nomatch h

/-- Everything an answered turn of the HOST can be: nothing to attempt, or the first operation of the queue. -/
theorem hostTurn_cases {s t : State} (h : s.hostTurn = .next t) :
    (s.hostOps = [] ∧ t = s) ∨ ∃ op rest, s.hostOps = op :: rest ∧ s.hostAttempt rest op = .next t := by
  cases hops : s.hostOps with
  | nil =>
    rw [State.hostTurn, hops] at h
    exact .inl ⟨rfl, (Host.Outcome.next.inj h).symm⟩
  | cons op rest => exact .inr ⟨op, rest, rfl, (hostTurn_cons hops).symm.trans h⟩

/-- Inside a held draw the HOST changes nothing: `stop()` waits, and no other operation is answered while RUNNING. -/
theorem hostTurn_held {s t : State} (hr : s.RUN = .running) (hp : s.PHASE = .drawWait) (h : s.hostTurn = .next t) :
    t = s := by
  have hbusy : s.RUN ≠ .stopped := fun hs => nomatch hr.symm.trans hs
  have hheld : s.PHASE ≠ .fetch := fun hf => nomatch hp.symm.trans hf
  rcases hostTurn_cases h with ⟨_, ht⟩ | ⟨op, rest, _, hattempt⟩
  · exact ht
  · rcases hostAttempt_cases hattempt with
      ⟨_, _, hs, _⟩ | ⟨_, _, hready, _⟩ | ⟨_, hready, _⟩ | ⟨_, _, hf, _⟩ | ⟨_, _, _, ht⟩
    · exact absurd hs hbusy
    · exact absurd ((hostReady_iff s).mp hready).1 hbusy
    · exact absurd ((hostReady_iff s).mp hready).1 hbusy
    · exact absurd hf hheld
    · exact ht

/-- The turns that leave a held draw as it is: the state differs at most in the timers and the keys. -/
theorem takeTurn_held {s t : State} {turn : Turn} (hr : s.RUN = .running) (hp : s.PHASE = .drawWait)
    (hf : s.FRAME_READY = false) (hturn : turn ≠ .publishFrame) (h : s.takeTurn turn = .next t) :
    t = { s with DT := t.DT, ST := t.ST, KEYS := t.KEYS } := by
  cases turn with
  | publishFrame => exact absurd rfl hturn
  | core =>
    rw [← Host.Outcome.next.inj ((coreTurn_waits hr hp hf).symm.trans h)]
  | timer =>
    obtain rfl := Host.Outcome.next.inj h
    rw [timerTurn_running hr]
    rfl
  | snapshotDisplay =>
    obtain rfl := Host.Outcome.next.inj h
    rfl
  | setKey index pressed =>
    obtain rfl := Host.Outcome.next.inj h
    rw [setKey_eq]
  | host => rw [hostTurn_held hr hp h]

/-- Settles O36: a publish sets the slot and nothing else; every other turn leaves all that is named as it was. -/
theorem heldDrawWaitsForPublish : Obligations.HeldDrawWaitsForPublish := by
  intro s t turn hr hp hf h
  by_cases hturn : turn = .publishFrame
  · subst hturn
    obtain rfl := Host.Outcome.next.inj h
    exact ⟨hp, hr, rfl, rfl, rfl, rfl, rfl, iff_of_true rfl rfl⟩
  · rw [takeTurn_held hr hp hf hturn h]
    exact ⟨hp, hr, rfl, rfl, rfl, rfl, rfl, iff_of_false (Bool.eq_false_iff.mp hf) hturn⟩

end Sys2Proof.Machine
end

section
/-! PROOFS. Memory, the fetch, the call and the index register (20_memory.md R51, R52; 40_control.md R94; 42_index_memory.md
R130 to R132): reads after writes, what a push leaves unchanged, and from these the instructions one by one. -/

namespace Sys2Proof.Machine

/-! ### Memory and the fetch -/

/-- Settles O8: the two addresses reach one cell exactly when they agree modulo 4096. -/
theorem readAfterWrite : Obligations.ReadAfterWrite := by
  intro s a b v
  have hread := memRead_memWrite s a b v
  exact ⟨fun hab => hread.trans (if_pos hab.symm), fun hab => hread.trans (if_neg (Ne.symm hab)), unchangedExcept_MEM rfl⟩

/-- Settles O9: in canonical form a list has an entry exactly where memory differs from its reset byte. -/
theorem canonicalMemoriesThatReadAlikeAreEqual : Obligations.CanonicalMemoriesThatReadAlikeAreEqual :=
  fun c _ _ hm hn hread => Memory.ext_of_read c hm hn hread

theorem memRead_eq (s : State) (a : Word) : s.memRead a = Memory.read s.cfg s.MEM (a.toNat % 4096) := rfl

/-- Settles O7: the word is its two bytes, and the address after PC, reduced to 16 bits first, has the same cell. -/
theorem fetchIsBigEndianAndMasked : Obligations.FetchIsBigEndianAndMasked := by
  intro s
  have hnext : (s.PC + 1).toNat % 4096 = (s.PC.toNat + 1) % 4096 := memIndex_add s.PC 1
  rw [State.fetchWord, wordOfBytes_toNat, memRead_eq, memRead_eq, hnext]

/-! ### The call -/

theorem unchangedExcept_push (s : State) (a : Word) : UnchangedExcept [.STACK] s (s.push a) :=
  unchangedExcept_of_withParts (by decide) rfl

theorem exec_call_of_not_full {s : State} (nnn : Addr12) (h : s.stackFull = false) :
    exec (.call nnn) s = .next ((s.push s.PC).setPC (addrOperand nnn)) :=
  if_neg (Bool.eq_false_iff.mp h)

theorem exec_call_of_full {s : State} (nnn : Addr12) (h : s.stackFull = true) :
    exec (.call nnn) s = .fault .stackOverflow :=
  if_pos h

/-- A call that answers has pushed and jumped. -/
theorem eq_of_exec_call {s t : State} {nnn : Addr12} (h : exec (.call nnn) s = .next t) :
    s.stackFull = false ∧ t = (s.push s.PC).setPC (addrOperand nnn) := by
  cases hfull : s.stackFull with
  | true => exact nomatch (exec_call_of_full nnn hfull).symm.trans h
  | false => exact ⟨rfl, (Host.Outcome.next.inj ((exec_call_of_not_full nnn hfull).symm.trans h)).symm⟩

theorem stackFull_eq_false {s : State} (h : ∀ d, s.cfg.stackDepth = some d → s.STACK.length < d) :
    s.stackFull = false := by
  refine Bool.eq_false_iff.mpr fun hfull => ?_
  obtain ⟨d, hd, hle⟩ := (stackFull_iff s).mp hfull
  exact absurd (h d hd) (not_lt.mpr hle)

/-- Settles O12: a stack that is unbounded or below its depth is not full, so the call pushes and jumps. -/
theorem callPushesReturnAddress : Obligations.CallPushesReturnAddress := by
  intro s nnn hdepth
  exact ⟨decodeWord_encodeWord (.call nnn), _, exec_call_of_not_full nnn (stackFull_eq_false hdepth), rfl,
    addrOperand_toNat nnn, (unchangedExcept_push s s.PC).trans (unchangedExcept_setPC _ _)⟩

/-- Settles O13: a stack at its depth is full. -/
theorem callOnFullStackFaults : Obligations.CallOnFullStackFaults :=
  fun s nnn d hd hle => exec_call_of_full nnn ((stackFull_iff s).mpr ⟨d, hd, hle⟩)

/-- Settles O15: the call put PC on the stack and the return takes it off. -/
theorem returnUndoesCall : Obligations.ReturnUndoesCall := by
  intro s t u nnn h hstack
  obtain ⟨-, rfl⟩ := eq_of_exec_call h
  have hpushed : u.STACK = s.PC :: s.STACK := hstack
  exact ⟨_, exec_ret u, popValue_of_cons hpushed, congrArg List.tail hpushed⟩

/-! ### The index register -/

theorem unchangedExcept_setI (s : State) (w : Word) : UnchangedExcept [.I] s (s.setI w) := unchangedExcept_I rfl

theorem exec_ldidx_loadIndex {s : State} (nnn : Addr12) (h : s.cfg.annnPolicy = .loadIndex) :
    exec (.ldidx nnn) s = .next (s.setI (addrOperand nnn)) := by
  simp only [exec, execLdidx, h]

theorem exec_ldidx_unsupported {s : State} (nnn : Addr12) (h : s.cfg.annnPolicy = .unsupported) :
    exec (.ldidx nnn) s = .next (s.reportUnsupported (wordA 0xA nnn)) := by
  simp only [exec, execLdidx, h]
  rfl

theorem exec_addidx (x : Reg) (s : State) : exec (.addidx x) s = .next (s.setI (s.I + s.regWord x)) := rfl

theorem exec_ldfont (x : Reg) (s : State) : exec (.ldfont x) s = .next (s.setI (glyphAddr (s.reg x))) := rfl

/-- The address of a glyph fits in 16 bits for every byte (decision D20). -/
theorem glyphAddr_toNat (v : Byte) : (glyphAddr v).toNat = 0x50 + 5 * v.toNat := by
  have hv := v.isLt
  rw [glyphAddr, Config.fontBase, BitVec.toNat_ofNat]
  omega

/-- Settles O25: one write of I under one policy, one report under the other. -/
theorem loadIndexByPolicy : Obligations.LoadIndexByPolicy := by
  intro s nnn
  refine ⟨decodeWord_encodeWord (.ldidx nnn), ?_⟩
  cases hp : s.cfg.annnPolicy with
  | loadIndex =>
    exact ⟨_, exec_ldidx_loadIndex nnn hp, fun _ => ⟨addrOperand_toNat nnn, unchangedExcept_setI s _⟩, fun h => nomatch h⟩
  | unsupported =>
    exact ⟨_, exec_ldidx_unsupported nnn hp, fun h => (nomatch h), fun _ => ⟨rfl, unchangedExcept_reportUnsupported s _⟩⟩

/-- Settles O26: each of the two is one write of I. -/
theorem indexArithmetic : Obligations.IndexArithmetic := by
  intro s x
  have hsum : (s.I + s.regWord x).toNat = (s.I.toNat + (s.reg x).toNat) % 65536 := by
    rw [BitVec.toNat_add, regWord_toNat]
  exact ⟨⟨decodeWord_encodeWord (.addidx x), _, exec_addidx x s, hsum, unchangedExcept_setI s _⟩,
    ⟨decodeWord_encodeWord (.ldfont x), _, exec_ldfont x s, glyphAddr_toNat (s.reg x), unchangedExcept_setI s _⟩⟩

/-! ### The round trip of a block of registers -/

/-- Settles O30: the load reads each register's place in the block, where the store put it. -/
theorem storeThenLoadRestoresRegisters : Obligations.StoreThenLoadRestoresRegisters := by
  intro s t u x h hI hmem
  obtain rfl := Host.Outcome.next.inj ((exec_stm x s).symm.trans h)
  refine ⟨_, exec_ldm x u, fun i hi => ?_⟩
  rw [reg_postIncrementI, reg_loadBlock u u.I hi, hmem, hI, memRead_postIncrementI, memRead_storeBlock s s.I hi]

end Sys2Proof.Machine
end

section
/-! PROOFS. Arithmetic, logic, shifts and the random byte (41_alu.md R115 to R123): what each of the three shapes of R111 leaves
in the registers, and from these the instructions one by one. -/

namespace Sys2Proof.Machine

/-! ### Logic (R115 to R117) -/

theorem logicDone_setLogic (s : State) (x : Reg) (v : Byte) : LogicDone x v s (s.setLogic x v) := by
  have hlegacy := isLegacy_iff s
  refine ⟨fun hm => ?_, fun hm hx => ?_, fun hxm => ?_, fun r hr => ?_, unchangedExcept_V (setLogic_eq s x v)⟩
  · rw [reg_setLogic, if_pos ⟨rfl, hlegacy.mpr hm⟩]
  · rw [reg_setLogic, if_neg fun e => hm (hlegacy.mp e.2), if_neg (Ne.symm hx)]
  · have hkeep : ¬ (x = VF ∧ s.isLegacy = true) := fun ⟨hx, hl⟩ => hxm.elim (fun h => h hx) fun h => h (hlegacy.mp hl)
    rw [reg_setLogic, if_neg hkeep, if_pos rfl]
  · obtain ⟨hrx, hrF⟩ : r ≠ x ∧ r ≠ VF := by simpa using hr
    rw [reg_setLogic, if_neg fun e => hrF e.1, if_neg hrx]

theorem exec_or (x y : Reg) (s : State) : exec (.or x y) s = .next (s.setLogic x (s.reg x ||| s.reg y)) := rfl

theorem exec_and (x y : Reg) (s : State) : exec (.and x y) s = .next (s.setLogic x (s.reg x &&& s.reg y)) := rfl

theorem exec_xor (x y : Reg) (s : State) : exec (.xor x y) s = .next (s.setLogic x (s.reg x ^^^ s.reg y)) := rfl

/-- Settles O19: the three instructions have one shape. -/
theorem logicOperations : Obligations.LogicOperations := by
  intro s x y
  exact ⟨⟨decodeWord_encodeWord (.or x y), _, exec_or x y s, logicDone_setLogic s x _⟩,
    ⟨decodeWord_encodeWord (.and x y), _, exec_and x y s, logicDone_setLogic s x _⟩,
    ⟨decodeWord_encodeWord (.xor x y), _, exec_xor x y s, logicDone_setLogic s x _⟩⟩

/-! ### Sums and differences (R118, R119, R121) -/

/-- The result first, then the flag: the flag is what is left when Vx is VF. -/
theorem arithmeticDone_setWithFlag (s : State) (x : Reg) {v : Byte} {k : Int} (f : Prop) [Decidable f]
    (hv : (v.toNat : Int) = k % 256) : ArithmeticDone x k f s (s.setWithFlag x v (flagByte (decide f))) := by
  refine ⟨fun hx => ?_, fun hf => ?_, fun hf => ?_, fun r hr => ?_, unchangedExcept_V (setWithFlag_eq s x v _)⟩
  · rw [reg_setWithFlag, if_neg hx, if_pos rfl, hv]
  · rw [reg_setWithFlag, if_pos rfl, decide_eq_true hf]
    rfl
  · rw [reg_setWithFlag, if_pos rfl, decide_eq_false hf]
    rfl
  · obtain ⟨hrx, hrF⟩ : r ≠ x ∧ r ≠ VF := by simpa using hr
    rw [reg_setWithFlag, if_neg hrF, if_neg hrx]

theorem toNat_add_int (a b : Byte) : ((a + b).toNat : Int) = ((a.toNat : Int) + b.toNat) % 256 := by
  rw [BitVec.toNat_add]
  omega

theorem toNat_sub_int (a b : Byte) : ((a - b).toNat : Int) = ((a.toNat : Int) - b.toNat) % 256 := by
  have ha := a.isLt
  have hb := b.isLt
  rw [BitVec.toNat_sub]
  omega

theorem exec_add (x y : Reg) (s : State) :
    exec (.add x y) s = .next (s.setWithFlag x (s.reg x + s.reg y) (carryFlag (s.reg x) (s.reg y))) := rfl

theorem exec_sub (x y : Reg) (s : State) :
    exec (.sub x y) s = .next (s.setWithFlag x (s.reg x - s.reg y) (noBorrowFlag (s.reg x) (s.reg y))) := rfl

theorem exec_subn (x y : Reg) (s : State) :
    exec (.subn x y) s = .next (s.setWithFlag x (s.reg y - s.reg x) (noBorrowFlag (s.reg y) (s.reg x))) := rfl

/-- Settles O20: the 8-bit sum is the sum modulo 256, and the carry is the flag of its excess. -/
theorem addWithCarryOut : Obligations.AddWithCarryOut := by
  intro s x y
  exact ⟨decodeWord_encodeWord (.add x y), _, exec_add x y s,
    arithmeticDone_setWithFlag s x _ (toNat_add_int (s.reg x) (s.reg y))⟩

/-- Settles O21: the 8-bit difference is the difference modulo 256, with the operands in either order. -/
theorem subtractWithNoBorrowFlag : Obligations.SubtractWithNoBorrowFlag := by
  intro s x y
  exact ⟨⟨decodeWord_encodeWord (.sub x y), _, exec_sub x y s,
      arithmeticDone_setWithFlag s x _ (toNat_sub_int (s.reg x) (s.reg y))⟩,
    ⟨decodeWord_encodeWord (.subn x y), _, exec_subn x y s,
      arithmeticDone_setWithFlag s x _ (toNat_sub_int (s.reg y) (s.reg x))⟩⟩

/-! ### Shifts (R120, R122) -/

/-- What is shifted is Vy in LEGACY mode and Vx otherwise. -/
theorem reg_shiftSource_self {s : State} {x y : Reg} {v : Byte} (hlegacy : s.MODE = .legacy → v = s.reg y)
    (hother : s.MODE ≠ .legacy → v = s.reg x) : (s.shiftSource x y).reg x = v := by
  by_cases hm : s.MODE = .legacy
  · rw [reg_shiftSource, if_pos ⟨rfl, (isLegacy_iff s).mpr hm⟩, hlegacy hm]
  · rw [reg_shiftSource, if_neg fun e => hm ((isLegacy_iff s).mp e.2), hother hm]

section
variable {s : State} {x y : Reg} {v : Byte} (out shifted : Byte → Byte)

theorem reg_shift_of_ne (hv : (s.shiftSource x y).reg x = v) (hx : x ≠ VF) :
    ((s.shiftSource x y).shiftReg x out shifted).reg x = shifted v ∧
      ((s.shiftSource x y).shiftReg x out shifted).reg VF = out v := by
  constructor
  · rw [reg_shiftReg, if_pos rfl, if_neg hx, hv]
  · rw [reg_shiftReg, if_neg (Ne.symm hx), if_pos rfl, hv]

/-- With x = F the bit out is itself shifted (decision D9). -/
theorem reg_shift_of_eq (hv : (s.shiftSource x y).reg x = v) (hx : x = VF) :
    ((s.shiftSource x y).shiftReg x out shifted).reg VF = shifted (out v) := by
  rw [reg_shiftReg, if_pos hx.symm, if_pos hx, hv]

theorem regsExcept_shift : RegsExcept [x, VF] s ((s.shiftSource x y).shiftReg x out shifted) := by
  intro r hr
  obtain ⟨hrx, hrF⟩ : r ≠ x ∧ r ≠ VF := by simpa using hr
  rw [reg_shiftReg, if_neg hrx, if_neg hrF, reg_shiftSource, if_neg fun e => hrx e.1]

theorem unchangedExcept_shift : UnchangedExcept [.V] s ((s.shiftSource x y).shiftReg x out shifted) :=
  (unchangedExcept_V (shiftSource_eq s x y)).trans (unchangedExcept_V (shiftReg_eq _ x out shifted)) |>.mono (by decide)

end

theorem toNat_shiftRight_one (v : Byte) : (v >>> 1).toNat = v.toNat / 2 := by
  rw [BitVec.toNat_ushiftRight, Nat.shiftRight_eq_div_pow]

theorem toNat_shiftLeft_one (v : Byte) : (v <<< 1).toNat = v.toNat * 2 % 256 := by
  rw [BitVec.toNat_shiftLeft, Nat.shiftLeft_eq]

theorem toNat_shiftOutRight (v : Byte) : (shiftOutRight v).toNat = v.toNat % 2 := by
  rw [shiftOutRight, BitVec.toNat_and]
  exact Nat.and_one_is_mod v.toNat

theorem toNat_shiftOutLeft (v : Byte) : (shiftOutLeft v).toNat = v.toNat / 128 := by
  have hv := v.isLt
  have hbit : (shiftOutLeft v).toNat = v.toNat / 2 ^ 7 % 2 := by
    rw [shiftOutLeft, BitVec.toNat_and, BitVec.toNat_ushiftRight, Nat.shiftRight_eq_div_pow]
    exact Nat.and_one_is_mod _
  omega

theorem exec_shr (x y : Reg) (s : State) :
    exec (.shr x y) s = .next ((s.shiftSource x y).shiftReg x shiftOutRight (fun v => v >>> 1)) := rfl

theorem exec_shl (x y : Reg) (s : State) :
    exec (.shl x y) s = .next ((s.shiftSource x y).shiftReg x shiftOutLeft (fun v => v <<< 1)) := rfl

/-- Settles O22: the bit out is v mod 2, and shifted right once more it is 0. -/
theorem shiftRight : Obligations.ShiftRight := by
  intro s x y v hlegacy hother
  have hv := reg_shiftSource_self hlegacy hother
  refine ⟨decodeWord_encodeWord (.shr x y), _, exec_shr x y s, fun hx => ?_, fun hx => ?_, regsExcept_shift _ _,
    unchangedExcept_shift _ _⟩
  · obtain ⟨hreg, hflag⟩ := reg_shift_of_ne shiftOutRight (fun v => v >>> 1) hv hx
    rw [hreg, hflag]
    exact ⟨toNat_shiftRight_one v, toNat_shiftOutRight v⟩
  · rw [reg_shift_of_eq shiftOutRight _ hv hx]
    apply BitVec.eq_of_toNat_eq
    rw [toNat_shiftRight_one, toNat_shiftOutRight]
    exact Nat.div_eq_of_lt (Nat.mod_lt _ (by decide))

/-- Settles O23: the bit out is v div 128, and shifted left once more it is twice that. -/
theorem shiftLeft : Obligations.ShiftLeft := by
  intro s x y v hlegacy hother
  have hv := reg_shiftSource_self hlegacy hother
  have hlt := v.isLt
  refine ⟨decodeWord_encodeWord (.shl x y), _, exec_shl x y s, fun hx => ?_, fun hx => ?_, regsExcept_shift _ _,
    unchangedExcept_shift _ _⟩
  · obtain ⟨hreg, hflag⟩ := reg_shift_of_ne shiftOutLeft (fun v => v <<< 1) hv hx
    rw [hreg, hflag]
    exact ⟨toNat_shiftLeft_one v, toNat_shiftOutLeft v⟩
  · rw [reg_shift_of_eq shiftOutLeft _ hv hx, toNat_shiftLeft_one, toNat_shiftOutLeft]
    omega

/-! ### The random byte (R123) -/

theorem exec_rnd (x : Reg) (nn : Byte) (s : State) :
    exec (.rnd x nn) s = .next ((s.setReg x (nn &&& s.randomByte)).drawn) := rfl

/-- Settles O24: one write of Vx with a byte of the set, and one draw. -/
theorem randomByteIsMasked : Obligations.RandomByteIsMasked := by
  intro s x nn
  obtain ⟨hx, hregs, hframe⟩ := setReg_effect s x (nn &&& s.randomByte)
  exact ⟨decodeWord_encodeWord (.rnd x nn), _, s.randomByte, exec_rnd x nn s, randomByte_mem s, hx, hregs,
    hframe.trans (unchangedExcept_drawn _)⟩

end Sys2Proof.Machine
end

section
/-! PROOFS. What each instruction writes (10_state.md sections 2 to 7): the footprint of an instruction as a list of components,
that `exec` stays inside it, and from it the writers of each component and of VF. -/

namespace Sys2Proof.Machine

/-! ### The footprint of an instruction -/

@[simp] theorem isLegacy_memWriteList (s : State) (a : Word) (vs : List Byte) :
    (s.memWriteList a vs).isLegacy = s.isLegacy := by
  rw [memWriteList_eq]
  rfl

@[simp] theorem isLegacy_loadRegs (s : State) (a : Word) (rs : List Reg) :
    (s.loadRegs a rs).isLegacy = s.isLegacy := by
  rw [loadRegs_eq]
  rfl

/-- The components `exec` of an instruction may write in a state. -/
def State.footprint (s : State) : Instr → List Part
  | .cls => [.DISP]
  | .ret | .call _ => [.STACK, .PC]
  | .jp _ | .jpv0 _ | .sei _ _ | .snei _ _ | .ser _ _ | .sner _ _ | .skp _ | .sknp _ => [.PC]
  | .ldi _ _ | .addi _ _ | .mov _ _ | .or _ _ | .and _ _ | .xor _ _ | .add _ _ | .sub _ _ | .shr _ _ | .subn _ _
  | .shl _ _ | .lddt _ => [.V]
  | .rnd _ _ => [.V, .draws]
  | .ldidx _ =>
    (if s.cfg.annnPolicy = .loadIndex then [.I] else []) ++ (if s.cfg.annnPolicy = .unsupported then [.REPORT] else [])
  | .addidx _ | .ldfont _ => [.I]
  | .drw _ _ _ => (if s.isLegacy then [.PHASE, .IR] else []) ++ (if s.isLegacy then [] else [.V, .DISP])
  | .ldk _ => [.V, .PC, .draws] ++ (if s.isLegacy then [.KEYWAIT] else [])
  | .stdt _ => [.DT]
  | .stst _ => [.ST]
  | .bcd _ => [.MEM]
  | .stm _ => [.MEM] ++ (if s.isLegacy then [.I] else [])
  | .ldm _ => [.V] ++ (if s.isLegacy then [.I] else [])

/-- `exec` answers a state that differs from its own only inside the footprint. -/
theorem exec_footprint {i : Instr} {s t : State} (h : exec i s = .next t) : t = s.withParts t (s.footprint i) := by
  cases i with
  | call nnn =>
    simp only [exec, execCall] at h
    split at h
    · exact nomatch h
    · obtain rfl := Host.Outcome.next.inj h
      rfl
  | ldidx nnn =>
    simp only [exec, execLdidx] at h
    split at h
    all_goals
      next hp =>
      obtain rfl := Host.Outcome.next.inj h
      simp only [State.footprint, hp]
      rfl
  | drw x y n =>
    simp only [exec, execDrw] at h
    split at h
    all_goals
      next hl =>
      obtain rfl := Host.Outcome.next.inj h
      simp only [State.footprint, hl]
      rfl
  | ldk x =>
    obtain rfl := Host.Outcome.next.inj h
    split
    · next hl =>
      simp only [State.footprint, hl, State.awaitPressRelease]
      split
      · split <;> rfl
      · split <;> rfl
    · next hl =>
      simp only [State.footprint, hl, State.awaitPress]
      split <;> rfl
  | bcd x =>
    obtain rfl := Host.Outcome.next.inj h
    rw [memWriteList_eq]
    rfl
  | stm x =>
    obtain rfl := Host.Outcome.next.inj h
    rw [State.postIncrementI, isLegacy_memWriteList, memWriteList_eq]
    split
    all_goals
      next hl =>
      simp only [State.footprint, hl]
      rfl
  | ldm x =>
    obtain rfl := Host.Outcome.next.inj h
    rw [State.postIncrementI, isLegacy_loadRegs, loadRegs_eq]
    split
    all_goals
      next hl =>
      simp only [State.footprint, hl]
      rfl
  | sei x nn | snei x nn | skp x | sknp x =>
    obtain rfl := Host.Outcome.next.inj h
    rw [skipIf_eq]
    rfl
  | ser x y | sner x y =>
    obtain rfl := Host.Outcome.next.inj h
    rw [skipIf_eq]
    rfl
  | or x y | and x y | xor x y =>
    obtain rfl := Host.Outcome.next.inj h
    rw [setLogic_eq]
    rfl
  | shr x y | shl x y =>
    obtain rfl := Host.Outcome.next.inj h
    rw [shiftReg_eq, shiftSource_eq]
    rfl
  | _ =>
    obtain rfl := Host.Outcome.next.inj h
    rfl

/-- A component outside the footprint is left as it was. -/
theorem exec_equal {i : Instr} {s t : State} (h : exec i s = .next t) {p : Part} (hp : p ∉ s.footprint i) :
    p.equal s t := by
  rw [exec_footprint h]
  exact equal_withParts s t hp

/-- A component that an instruction changed is in its footprint. -/
theorem mem_footprint {i : Instr} {s t : State} (h : exec i s = .next t) {p : Part} (hne : ¬ p.equal s t) :
    p ∈ s.footprint i :=
  not_not.mp fun hp => hne (exec_equal h hp)

/-! ### Whose footprint holds a component -/

theorem STACK_mem_footprint {s : State} {i : Instr} (h : .STACK ∈ s.footprint i) : i = .ret ∨ ∃ nnn, i = .call nnn := by
  cases i with
  | ret => exact .inl rfl
  | call nnn => exact .inr ⟨nnn, rfl⟩
  | _ => simp [State.footprint] at h

theorem I_mem_footprint {s : State} {i : Instr} (h : .I ∈ s.footprint i) :
    (∃ nnn, i = .ldidx nnn) ∨ (∃ x, i = .addidx x) ∨ (∃ x, i = .ldfont x) ∨
      s.MODE = .legacy ∧ ((∃ x, i = .stm x) ∨ ∃ x, i = .ldm x) := by
  cases i with
  | ldidx nnn => exact .inl ⟨nnn, rfl⟩
  | addidx x => exact .inr (.inl ⟨x, rfl⟩)
  | ldfont x => exact .inr (.inr (.inl ⟨x, rfl⟩))
  | stm x => exact .inr (.inr (.inr ⟨by simpa [State.footprint, isLegacy_iff] using h, .inl ⟨x, rfl⟩⟩))
  | ldm x => exact .inr (.inr (.inr ⟨by simpa [State.footprint, isLegacy_iff] using h, .inr ⟨x, rfl⟩⟩))
  | _ => simp [State.footprint] at h

theorem DT_mem_footprint {s : State} {i : Instr} (h : .DT ∈ s.footprint i) : ∃ x, i = .stdt x := by
  cases i with
  | stdt x => exact ⟨x, rfl⟩
  | _ => simp [State.footprint] at h

theorem ST_mem_footprint {s : State} {i : Instr} (h : .ST ∈ s.footprint i) : ∃ x, i = .stst x := by
  cases i with
  | stst x => exact ⟨x, rfl⟩
  | _ => simp [State.footprint] at h

theorem MEM_mem_footprint {s : State} {i : Instr} (h : .MEM ∈ s.footprint i) : (∃ x, i = .bcd x) ∨ ∃ x, i = .stm x := by
  cases i with
  | bcd x => exact .inl ⟨x, rfl⟩
  | stm x => exact .inr ⟨x, rfl⟩
  | _ => simp [State.footprint] at h

theorem DISP_mem_footprint {s : State} {i : Instr} (h : .DISP ∈ s.footprint i) : i = .cls ∨ ∃ x y n, i = .drw x y n := by
  cases i with
  | cls => exact .inl rfl
  | drw x y n => exact .inr ⟨x, y, n, rfl⟩
  | _ => simp [State.footprint] at h

theorem KEYWAIT_mem_footprint {s : State} {i : Instr} (h : .KEYWAIT ∈ s.footprint i) :
    s.MODE = .legacy ∧ ∃ x, i = .ldk x := by
  cases i with
  | ldk x => exact ⟨by simpa [State.footprint, isLegacy_iff] using h, x, rfl⟩
  | _ => simp [State.footprint] at h

theorem PHASE_or_IR_mem_footprint {s : State} {i : Instr} (h : .PHASE ∈ s.footprint i ∨ .IR ∈ s.footprint i) :
    s.MODE = .legacy ∧ ∃ x y n, i = .drw x y n := by
  cases i with
  | drw x y n => exact ⟨by simpa [State.footprint, isLegacy_iff] using h, x, y, n, rfl⟩
  | _ => simp [State.footprint] at h

theorem REPORT_mem_footprint {s : State} {i : Instr} (h : .REPORT ∈ s.footprint i) :
    s.cfg.annnPolicy = .unsupported ∧ ∃ nnn, i = .ldidx nnn := by
  cases i with
  | ldidx nnn => exact ⟨by simpa [State.footprint] using h, nnn, rfl⟩
  | _ => simp [State.footprint] at h

theorem ProgramPart.unchangedExcept {s t : State} (h : ProgramPart s t) : UnchangedExcept
    [.V, .PC, .I, .STACK, .DT, .ST, .MEM, .DISP, .KEYWAIT, .PHASE, .IR, .REPORT, .draws] s t :=
  unchangedExcept_of_withParts (by decide) h

/-- Settles O59: a component that changed is in the footprint, and the footprints that hold it are those of its writers. -/
theorem instructionsWriteOnlyTheirOwn : Obligations.InstructionsWriteOnlyTheirOwn := by
  intro i s t h
  have changed : ∀ {p : Part}, ¬ p.equal s t → p ∈ s.footprint i := mem_footprint h
  exact ⟨(exec_programPart h).unchangedExcept,
    fun hne => STACK_mem_footprint (changed hne), fun hne => I_mem_footprint (changed hne),
    fun hne => DT_mem_footprint (changed hne), fun hne => ST_mem_footprint (changed hne),
    fun hne => MEM_mem_footprint (changed hne), fun hne => DISP_mem_footprint (changed hne),
    fun hne => KEYWAIT_mem_footprint (changed hne),
    fun hne => PHASE_or_IR_mem_footprint (hne.imp changed changed),
    fun hne => REPORT_mem_footprint (changed hne)⟩

/-! ### The writers of VF -/

/-- An instruction that changes a register has the registers in its footprint. -/
theorem V_mem_footprint_of_reg_ne {i : Instr} {s t : State} {r : Reg} (h : exec i s = .next t) (hne : t.reg r ≠ s.reg r) :
    .V ∈ s.footprint i :=
  mem_footprint h fun hV : t.V = s.V => hne (by rw [State.reg, hV, State.reg])

/-- A write of Vx changes no other register. -/
theorem eq_of_setReg_changes {s : State} {x r : Reg} {b : Byte} (h : (s.setReg x b).reg r ≠ s.reg r) : x = r := by
  by_contra hx
  exact h (reg_setReg_ne s b (Ne.symm hx))

/-- A logic operation changes VF only in LEGACY mode or as its destination. -/
theorem legacy_or_eq_VF_of_setLogic_changes {s : State} {x : Reg} {v : Byte}
    (h : (s.setLogic x v).reg VF ≠ s.reg VF) : s.MODE = .legacy ∨ x = VF := by
  by_contra hc
  obtain ⟨hl, hx⟩ := not_or.mp hc
  rw [reg_setLogic, if_neg fun e => hl ((isLegacy_iff s).mp e.2), if_neg (Ne.symm hx)] at h
  exact h rfl

/-- Fx0A changes no register but its destination. -/
theorem eq_of_awaitKey_changes {s t : State} {x r : Reg} (h : exec (.ldk x) s = .next t) (hne : t.reg r ≠ s.reg r) :
    x = r := by
  by_contra hx
  exact hne ((regsExcept_exec_ldk h).reg_eq (Ne.symm hx))

/-- A block load changes VF only when it reaches it, and x = F is the only block that does. -/
theorem eq_VF_of_loadBlock_changes {s : State} {a : Word} {x : Reg}
    (h : (s.loadRegs a (blockRegs x)).reg VF ≠ s.reg VF) : x = VF := by
  by_contra hx
  refine h (reg_loadBlock_above s a (lt_of_le_of_ne ?_ hx))
  exact Fin.le_last x

/-- Settles O60: an instruction that leaves V alone changes no register; of those that write registers each but the listed
ones writes its destination only. -/
theorem flagRegisterWriters : Obligations.FlagRegisterWriters := by
  intro i s t h hne
  have hV := V_mem_footprint_of_reg_ne h hne
  cases i with
  | add x y | sub x y | shr x y | subn x y | shl x y => exact .inl ⟨x, y, by simp⟩
  | drw x y n =>
    have hmode : s.MODE ≠ .legacy := by simpa [State.footprint, isLegacy_iff] using hV
    exact .inr (.inl ⟨x, y, n, rfl, hmode⟩)
  | or x y | and x y | xor x y =>
    obtain rfl := Host.Outcome.next.inj h
    exact .inr (.inr (.inl ⟨x, y, by simp, legacy_or_eq_VF_of_setLogic_changes hne⟩))
  | ldi x nn | addi x nn | rnd x nn =>
    obtain rfl := Host.Outcome.next.inj h
    obtain rfl := eq_of_setReg_changes hne
    exact .inr (.inr (.inr (.inl ⟨nn, by simp⟩)))
  | mov x y =>
    obtain rfl := Host.Outcome.next.inj h
    obtain rfl := eq_of_setReg_changes hne
    exact .inr (.inr (.inr (.inr (.inl ⟨y, rfl⟩))))
  | lddt x =>
    obtain rfl := Host.Outcome.next.inj h
    obtain rfl := eq_of_setReg_changes hne
    simp
  | ldk x =>
    obtain rfl := eq_of_awaitKey_changes h hne
    simp
  | ldm x =>
    obtain rfl := Host.Outcome.next.inj h
    rw [reg_postIncrementI] at hne
    obtain rfl := eq_VF_of_loadBlock_changes hne
    simp
  | _ => simp [State.footprint] at hV

end Sys2Proof.Machine
end

section
/-! PROOFS. The invariant (10_state.md sections 4, 6 and 7): what an instruction does to each component it speaks of, and that
the turn of every agent keeps it. -/

namespace Sys2Proof.Machine

/-! ### What an instruction does to memory, the stack and the held draw -/

/-- Memory changes by a block store only. -/
theorem exec_MEM {i : Instr} {s t : State} (h : exec i s = .next t) :
    t.MEM = s.MEM ∨ ∃ a vs, t.MEM = (s.memWriteList a vs).MEM := by
  by_cases hsame : t.MEM = s.MEM
  · exact .inl hsame
  · rcases MEM_mem_footprint (mem_footprint (p := .MEM) h hsame) with ⟨x, rfl⟩ | ⟨x, rfl⟩
    · obtain rfl := Host.Outcome.next.inj h
      exact .inr ⟨s.I, _, rfl⟩
    · obtain rfl := Host.Outcome.next.inj h
      exact .inr ⟨s.I, _, by rw [postIncrementI_eq]⟩

/-- The stack changes by a pop, or by a push when it is not full. -/
theorem exec_STACK {i : Instr} {s t : State} (h : exec i s = .next t) :
    t.STACK = s.STACK ∨ t.STACK = s.STACK.tail ∨ s.stackFull = false ∧ t.STACK = s.PC :: s.STACK := by
  by_cases hsame : t.STACK = s.STACK
  · exact .inl hsame
  · rcases STACK_mem_footprint (mem_footprint (p := .STACK) h hsame) with rfl | ⟨nnn, rfl⟩
    · obtain rfl := Host.Outcome.next.inj h
      exact .inr (.inl rfl)
    · obtain ⟨hfull, rfl⟩ := eq_of_exec_call h
      exact .inr (.inr ⟨hfull, rfl⟩)

/-- A draw is held only by a LEGACY Dxyn, with its word in IR. -/
theorem exec_PHASE {i : Instr} {s t : State} (h : exec i s = .next t) :
    t.PHASE = s.PHASE ∨ s.MODE = .legacy ∧ fieldFamily t.IR = 0xD := by
  by_cases hsame : t.PHASE = s.PHASE
  · exact .inl hsame
  · obtain ⟨hmode, x, y, n, rfl⟩ := PHASE_or_IR_mem_footprint (.inl (mem_footprint (p := .PHASE) h hsame))
    obtain rfl := Host.Outcome.next.inj ((exec_drw_legacy x y n hmode).symm.trans h)
    exact .inr ⟨hmode, fieldFamily_wordR 0xD x y n⟩

/-- The latch changes in LEGACY mode only. -/
theorem exec_KEYWAIT {i : Instr} {s t : State} (h : exec i s = .next t) : t.KEYWAIT = s.KEYWAIT ∨ s.MODE = .legacy := by
  by_cases hsame : t.KEYWAIT = s.KEYWAIT
  · exact .inl hsame
  · exact .inr (KEYWAIT_mem_footprint (mem_footprint (p := .KEYWAIT) h hsame)).1

/-! ### The invariant, step by step -/

/-- The invariant speaks of nine components; a change of the others keeps it. -/
theorem State.Inv.of_frame {s t : State} (hs : s.Inv) (h : t = s.withParts t
    [.V, .PC, .I, .DT, .ST, .DISP, .KEYS, .FRAME_READY, .REPORT, .draws, .schedule, .hostOps]) : t.Inv := by
  rw [h]
  exact ⟨hs.reset_done, hs.memory_canonical, hs.draw_held, hs.key_latched, hs.stack_bounded⟩

/-- An instruction executed at the boundary of a running machine keeps the invariant. -/
theorem exec_keeps_inv {i : Instr} {s t : State} (hs : s.Inv) (hr : s.RUN = .running) (hp : s.PHASE = .fetch)
    (h : exec i s = .next t) : t.Inv := by
  have hframe := (exec_programPart h).unchangedExcept
  have hcfg : t.cfg = s.cfg := hframe .cfg (by decide)
  have hmode : t.MODE = s.MODE := hframe .MODE (by decide)
  have hrun : t.RUN = s.RUN := hframe .RUN (by decide)
  have hreset : t.resetDone = s.resetDone := hframe .resetDone (by decide)
  refine ⟨hreset.trans hs.reset_done, ?_, fun hwait => ?_, fun hlatched => ?_, fun d hd => ?_⟩
  · rw [hcfg]
    rcases exec_MEM h with e | ⟨a, vs, e⟩
    · rw [e]
      exact hs.memory_canonical
    · rw [e]
      exact memWriteList_wf s a vs hs.memory_canonical
  · rcases exec_PHASE h with e | ⟨hlegacy, hfamily⟩
    · rw [e, hp] at hwait
      exact nomatch hwait
    · exact ⟨hmode.trans hlegacy, hrun.trans hr, hfamily⟩
  · rw [hmode]
    rcases exec_KEYWAIT h with e | hlegacy
    · exact hs.key_latched (e ▸ hlatched)
    · exact hlegacy
  · rw [hcfg] at hd
    have hbound := hs.stack_bounded d hd
    rcases exec_STACK h with e | e | ⟨hfull, e⟩
    · rwa [e]
    · rw [e, List.length_tail]
      omega
    · have hlt : ¬ d ≤ s.STACK.length := fun hle =>
        Bool.eq_false_iff.mp hfull ((stackFull_iff s).mpr ⟨d, hd, hle⟩)
      rw [e, List.length_cons]
      omega

/-- The completion of a held draw is back at the boundary, so no draw is held. -/
theorem completeDraw_keeps_inv {s : State} (hs : s.Inv) : s.completeDraw.Inv :=
  ⟨hs.reset_done, hs.memory_canonical, fun h => (nomatch h), hs.key_latched, hs.stack_bounded⟩

theorem coreTurn_keeps_inv {s t : State} (hs : s.Inv) (h : s.coreTurn = .next t) : t.Inv := by
  rcases coreTurn_cases s with ⟨_, e⟩ | ⟨hr, hp, i, _, e⟩ | ⟨_, _, _, e⟩ | ⟨_, _, _, e⟩ | ⟨_, _, _, e⟩ <;> rw [e] at h
  · exact Host.Outcome.next.inj h ▸ hs
  · exact exec_keeps_inv (hs.of_frame rfl : s.advancePC.Inv) hr hp h
  · obtain rfl := Host.Outcome.next.inj h
    exact hs.of_frame rfl
  · obtain rfl := Host.Outcome.next.inj h
    exact completeDraw_keeps_inv hs
  · exact Host.Outcome.next.inj h ▸ hs

theorem timerTurn_keeps_inv {s : State} (hs : s.Inv) : s.timerTurn.Inv := by
  cases hr : s.RUN with
  | running => exact hs.of_frame (by rw [timerTurn_running hr]; rfl)
  | stopped => exact (timerTurn_stopped hr).symm ▸ hs

/-! ### The HOST's operations -/

theorem hostReset_has_inv (s : State) (mode : Mode) (rest : List HostOp) :
    State.Inv { s.hostReset mode with hostOps := rest } :=
  ⟨rfl, ⟨List.Pairwise.nil, fun _ h => (nomatch h)⟩, fun h => (nomatch h), fun h => absurd rfl h, fun _ _ => Nat.zero_le _⟩

theorem hostLoadRom_keeps_inv {s : State} (hs : s.Inv) (bytes : List Byte) (rest : List HostOp) :
    State.Inv { s.hostLoadRom bytes with hostOps := rest } := by
  have hwf := memWriteList_wf s (BitVec.ofNat 16 Config.progBase) (bytes.take romLimit) hs.memory_canonical
  rw [State.hostLoadRom, memWriteList_eq]
  exact ⟨hs.reset_done, hwf, hs.draw_held, hs.key_latched, hs.stack_bounded⟩

/-- A start makes the machine RUNNING, as a held draw wants it. -/
theorem hostStart_keeps_inv {s : State} (hs : s.Inv) (rest : List HostOp) :
    State.Inv { s.hostStart with hostOps := rest } := by
  refine ⟨hs.reset_done, hs.memory_canonical, fun hwait => ?_, hs.key_latched, hs.stack_bounded⟩
  obtain ⟨hmode, -, hfamily⟩ := hs.draw_held hwait
  exact ⟨hmode, rfl, hfamily⟩

/-- A stop is answered at the boundary only, where no draw is held. -/
theorem hostStop_keeps_inv {s : State} (hs : s.Inv) (hp : s.PHASE = .fetch) (rest : List HostOp) :
    State.Inv { s.hostStop with hostOps := rest } :=
  ⟨hs.reset_done, hs.memory_canonical, fun h => (nomatch hp.symm.trans h), hs.key_latched, hs.stack_bounded⟩

theorem hostTurn_keeps_inv {s t : State} (hs : s.Inv) (h : s.hostTurn = .next t) : t.Inv := by
  rcases hostTurn_cases h with ⟨_, rfl⟩ | ⟨op, rest, _, hattempt⟩
  · exact hs
  · rcases hostAttempt_cases hattempt with
      ⟨mode, _, _, rfl⟩ | ⟨bytes, _, _, rfl⟩ | ⟨_, _, rfl⟩ | ⟨_, _, hp, rfl⟩ | ⟨_, _, _, rfl⟩
    · exact hostReset_has_inv s mode rest
    · exact hostLoadRom_keeps_inv hs bytes rest
    · exact hostStart_keeps_inv hs rest
    · exact hostStop_keeps_inv hs hp rest
    · exact hs

theorem takeTurn_keeps_inv {s t : State} {turn : Turn} (hs : s.Inv) (h : s.takeTurn turn = .next t) : t.Inv := by
  cases turn with
  | core => exact coreTurn_keeps_inv hs h
  | timer => exact Host.Outcome.next.inj h ▸ timerTurn_keeps_inv hs
  | publishFrame | snapshotDisplay =>
    obtain rfl := Host.Outcome.next.inj h
    exact hs.of_frame rfl
  | setKey index pressed =>
    obtain rfl := Host.Outcome.next.inj h
    exact hs.of_frame (by rw [setKey_eq]; rfl)
  | host => exact hostTurn_keeps_inv hs h

/-- Settles O50: taking the move off the schedule keeps the invariant, and so does the turn of whichever agent moves. -/
theorem everyStepKeepsTheInvariant : Obligations.EveryStepKeepsTheInvariant := by
  intro s t hs h
  rw [step_eq] at h
  exact takeTurn_keeps_inv (hs.of_frame rfl : s.afterPick.Inv) h

/-- Settles O51: memory and stack are empty, no draw is held and no key latched. -/
theorem resetStateHasTheInvariant : Obligations.ResetStateHasTheInvariant :=
  hostReset_has_inv State.reset .none []

end Sys2Proof.Machine
end

section
/-! PROOFS. Faults and the mode (60_exceptions.md R161, R163; 10_state.md R29): where the CORE can stop, and that the mode
changes by a reset alone. -/

namespace Sys2Proof.Machine

/-! ### Faults -/

/-- A fault of an instruction is the call on a full finite stack. -/
theorem exec_fault {i : Instr} {s : State} {f : Fault} (h : exec i s = .fault f) :
    f = .stackOverflow ∧ (∃ nnn, i = .call nnn) ∧ ∃ d, s.cfg.stackDepth = some d ∧ d ≤ s.STACK.length := by
  obtain ⟨hcall, hfull, hfault⟩ := exec_not_next (i := i) (s := s) fun t ht => nomatch h.symm.trans ht
  exact ⟨Host.Outcome.fault.inj (h.symm.trans hfault), hcall, (stackFull_iff s).mp hfull⟩

/-- Settles O53: of the turns of the CORE only an instruction's can fail to answer, and only as a call on a finite stack. -/
theorem noWordStopsTheCore : Obligations.NoWordStopsTheCore := by
  intro s hdepth
  rcases coreTurn_cases s with ⟨_, e⟩ | ⟨_, _, i, _, e⟩ | ⟨_, _, _, e⟩ | ⟨_, _, _, e⟩ | ⟨_, _, _, e⟩ <;> rw [e]
  · exact ⟨_, rfl⟩
  · by_contra hstop
    obtain ⟨-, hfull, -⟩ := exec_not_next (i := i) (s := s.advancePC) fun t ht => hstop ⟨t, ht⟩
    obtain ⟨d, hd, -⟩ := (stackFull_iff s.advancePC).mp hfull
    exact nomatch hdepth.symm.trans hd
  · exact ⟨_, rfl⟩
  · exact ⟨_, rfl⟩
  · exact ⟨_, rfl⟩

/-- A turn of the CORE faults at the boundary of a running machine, in the call it fetched. -/
theorem coreTurn_fault {s : State} {f : Fault} (h : s.coreTurn = .fault f) :
    f = .stackOverflow ∧ s.RUN = .running ∧ s.PHASE = .fetch ∧
      ∃ d nnn, s.cfg.stackDepth = some d ∧ d ≤ s.STACK.length ∧ decodeWord s.fetchWord = some (.call nnn) := by
  rcases coreTurn_cases s with ⟨_, e⟩ | ⟨hr, hp, i, hi, e⟩ | ⟨_, _, _, e⟩ | ⟨_, _, _, e⟩ | ⟨_, _, _, e⟩ <;> rw [e] at h
  · exact nomatch h
  · obtain ⟨hf, ⟨nnn, rfl⟩, d, hd, hle⟩ := exec_fault h
    exact ⟨hf, hr, hp, d, nnn, hd, hle, hi⟩
  · exact nomatch h
  · exact nomatch h
  · exact nomatch h

/-- The HOST never faults. -/
theorem hostTurn_ne_fault (s : State) (f : Fault) : s.hostTurn ≠ .fault f := by
  intro h
  unfold State.hostTurn at h
  split at h
  · exact nomatch h
  · next op rest _ =>
    cases op with
    | reset mode | loadRom bytes | start =>
      simp only [State.hostAttempt] at h
      split at h <;> exact nomatch h
    | stop =>
      simp only [State.hostAttempt] at h
      split at h
      · split at h <;> exact nomatch h
      · exact nomatch h

/-- Settles O54: no agent but the CORE faults, and the CORE only in a call. -/
theorem onlyFaultIsStackOverflow : Obligations.OnlyFaultIsStackOverflow := by
  intro s f h
  rw [step_eq] at h
  cases hn : s.nextTurn with rw [hn] at h
  | core =>
    obtain ⟨hf, hr, hp, hcall⟩ := coreTurn_fault (s := s.afterPick) h
    exact ⟨hf, rfl, hr, hp, hcall⟩
  | host => exact absurd h (hostTurn_ne_fault s.afterPick f)
  | timer | publishFrame | snapshotDisplay => exact nomatch h
  | setKey index pressed => exact nomatch h

/-! ### The mode and the parameters -/

theorem coreTurn_cfg_MODE {s t : State} (h : s.coreTurn = .next t) : t.cfg = s.cfg ∧ t.MODE = s.MODE := by
  rcases coreTurn_cases s with ⟨_, e⟩ | ⟨_, _, i, _, e⟩ | ⟨_, _, _, e⟩ | ⟨_, _, _, e⟩ | ⟨_, _, _, e⟩ <;> rw [e] at h
  · obtain rfl := Host.Outcome.next.inj h
    exact ⟨rfl, rfl⟩
  · have hframe := (exec_programPart h).unchangedExcept
    exact ⟨hframe .cfg (by decide), hframe .MODE (by decide)⟩
  · obtain rfl := Host.Outcome.next.inj h
    exact ⟨rfl, rfl⟩
  · obtain rfl := Host.Outcome.next.inj h
    exact ⟨rfl, rfl⟩
  · obtain rfl := Host.Outcome.next.inj h
    exact ⟨rfl, rfl⟩

/-- The HOST keeps the parameters, and changes the mode by a reset only. -/
theorem hostTurn_cfg_MODE {s t : State} (h : s.hostTurn = .next t) : t.cfg = s.cfg ∧
    (t.MODE = s.MODE ∨ ∃ rest, s.hostOps = .reset t.MODE :: rest ∧ s.RUN = .stopped) := by
  rcases hostTurn_cases h with ⟨_, rfl⟩ | ⟨op, rest, hops, hattempt⟩
  · exact ⟨rfl, .inl rfl⟩
  · rcases hostAttempt_cases hattempt with
      ⟨mode, rfl, hr, rfl⟩ | ⟨bytes, _, _, rfl⟩ | ⟨_, _, rfl⟩ | ⟨_, _, _, rfl⟩ | ⟨_, _, _, rfl⟩
    · exact ⟨rfl, .inr ⟨rest, hops, hr⟩⟩
    · have hframe := unchangedExcept_hostLoadRom s bytes
      exact ⟨hframe .cfg (by decide), .inl (hframe .MODE (by decide))⟩
    · exact ⟨rfl, .inl rfl⟩
    · exact ⟨rfl, .inl rfl⟩
    · exact ⟨rfl, .inl rfl⟩

/-- Settles O55: no turn writes the parameters, and of all turns only the HOST's reset writes the mode. -/
theorem modeChangesOnlyByReset : Obligations.ModeChangesOnlyByReset := by
  intro s t h
  rw [step_eq] at h
  cases hn : s.nextTurn with rw [hn] at h
  | core =>
    obtain ⟨hcfg, hmode⟩ := coreTurn_cfg_MODE h
    exact ⟨hcfg, .inl hmode⟩
  | host =>
    obtain ⟨hcfg, hmode⟩ := hostTurn_cfg_MODE h
    exact ⟨hcfg, hmode.imp_right fun ⟨rest, hreset⟩ => ⟨rest, rfl, hreset⟩⟩
  | timer =>
    obtain rfl := Host.Outcome.next.inj h
    unfold State.timerTurn
    split
    · exact ⟨rfl, .inl rfl⟩
    · exact ⟨rfl, .inl rfl⟩
  | publishFrame | snapshotDisplay =>
    obtain rfl := Host.Outcome.next.inj h
    exact ⟨rfl, .inl rfl⟩
  | setKey index pressed =>
    obtain rfl := Host.Outcome.next.inj h
    rw [setKey_eq]
    exact ⟨rfl, .inl rfl⟩

end Sys2Proof.Machine
end

section
/-! PROOFS. What no instruction reads (90_conflicts.md C1; 10_state.md R25, R35): two executions from states that differ in the
sound timer, the report and, between non-LEGACY modes, the mode. -/

namespace Sys2Proof.Machine

/-- The state with another mode, sound timer and report. -/
def State.overlay (s : State) (m : Mode) (b : Byte) (log : List Word) : State :=
  { s with MODE := m, ST := b, REPORT := log }

section
variable (s : State) (m : Mode) (b : Byte) (log : List Word)

/-! ### Operations that read none of the three -/

theorem memWriteList_overlay (a : Word) (vs : List Byte) :
    (s.overlay m b log).memWriteList a vs = (s.memWriteList a vs).overlay m b log := by
  induction vs generalizing s a with
  | nil => rfl
  | cons v vs ih => exact ih (s.memWrite a v) (a + 1)

theorem memReadList_overlay (a : Word) (n : Nat) : (s.overlay m b log).memReadList a n = s.memReadList a n := by
  induction n generalizing a with
  | zero => rfl
  | succ n ih => exact congrArg (s.memRead a :: ·) (ih (a + 1))

theorem loadRegs_overlay (a : Word) (rs : List Reg) :
    (s.overlay m b log).loadRegs a rs = (s.loadRegs a rs).overlay m b log := by
  induction rs generalizing s a with
  | nil => rfl
  | cons r rs ih => exact ih (s.setReg r (s.memRead a)) (a + 1)

theorem drawing_overlay (x y n : Fin 16) : (s.overlay m b log).drawing x y n = s.drawing x y n :=
  congrArg (Canvas.drawRows ⟨s.DISP, false⟩ (s.startCol x) (s.startRow y)) (memReadList_overlay s m b log s.I n.val)

theorem draw_overlay (x y n : Fin 16) : (s.overlay m b log).draw x y n = (s.draw x y n).overlay m b log := by
  rw [State.draw, drawing_overlay]
  rfl

theorem skipIf_overlay (c : Bool) : (s.overlay m b log).skipIf c = (s.skipIf c).overlay m b log := by
  cases c <;> rfl

theorem awaitPress_overlay (x : Reg) : (s.overlay m b log).awaitPress x = (s.awaitPress x).overlay m b log := by
  have hselect : (s.overlay m b log).selectKey = s.selectKey := rfl
  cases hk : s.selectKey with
  | none =>
    rw [awaitPress_none x hk, awaitPress_none x (hselect.trans hk)]
    rfl
  | some k =>
    rw [awaitPress_some x hk, awaitPress_some x (hselect.trans hk)]
    rfl

theorem awaitPressRelease_overlay (x : Reg) :
    (s.overlay m b log).awaitPressRelease x = (s.awaitPressRelease x).overlay m b log := by
  have hselect : (s.overlay m b log).selectKey = s.selectKey := rfl
  have hwait : (s.overlay m b log).KEYWAIT = s.KEYWAIT := rfl
  cases hw : s.KEYWAIT with
  | none =>
    cases hk : s.selectKey with
    | none =>
      rw [awaitPressRelease_none x hw hk, awaitPressRelease_none x (hwait.trans hw) (hselect.trans hk)]
      rfl
    | some k =>
      rw [awaitPressRelease_latch x hw hk, awaitPressRelease_latch x (hwait.trans hw) (hselect.trans hk)]
      rfl
  | some k =>
    have hdown : (s.overlay m b log).keyDown k = s.keyDown k := rfl
    cases hk : s.keyDown k with
    | true =>
      rw [awaitPressRelease_pressed x hw hk, awaitPressRelease_pressed x (hwait.trans hw) (hdown.trans hk)]
      rfl
    | false =>
      rw [awaitPressRelease_released x hw hk, awaitPressRelease_released x (hwait.trans hw) (hdown.trans hk)]
      rfl

/-! ### Operations that ask whether the mode is LEGACY -/

variable {s m}

theorem isLegacy_overlay (hm : m = .legacy ↔ s.MODE = .legacy) : (s.overlay m b log).isLegacy = s.isLegacy :=
  decide_eq_decide.mpr hm

variable (hl : (s.overlay m b log).isLegacy = s.isLegacy)
include hl

theorem clearFlagIfLegacy_overlay : (s.overlay m b log).clearFlagIfLegacy = s.clearFlagIfLegacy.overlay m b log := by
  rw [State.clearFlagIfLegacy, hl, State.clearFlagIfLegacy]
  split <;> rfl

theorem setLogic_overlay (x : Reg) (v : Byte) :
    (s.overlay m b log).setLogic x v = (s.setLogic x v).overlay m b log :=
  clearFlagIfLegacy_overlay (s := s.setReg x v) b log hl

theorem shiftSource_overlay (x y : Reg) :
    (s.overlay m b log).shiftSource x y = (s.shiftSource x y).overlay m b log := by
  rw [State.shiftSource, hl, State.shiftSource]
  split <;> rfl

theorem postIncrementI_overlay (x : Reg) :
    (s.overlay m b log).postIncrementI x = (s.postIncrementI x).overlay m b log := by
  rw [State.postIncrementI, hl, State.postIncrementI]
  split <;> rfl

end

/-- An instruction executed with another sound timer, another report and another mode that is LEGACY when the mode is, does
the same to all the rest, unless it writes the sound timer or the report. -/
theorem exec_overlay {i : Instr} {s t : State} {m : Mode} (b : Byte) (log : List Word)
    (hm : m = .legacy ↔ s.MODE = .legacy) (hST : .ST ∉ s.footprint i) (hREPORT : .REPORT ∉ s.footprint i)
    (h : exec i s = .next t) : exec i (s.overlay m b log) = .next (t.overlay m b log) := by
  have hl := isLegacy_overlay b log hm
  cases i with
  | stst x => exact absurd (List.mem_singleton.mpr rfl) hST
  | ldidx nnn =>
    have hp : s.cfg.annnPolicy = .loadIndex := by
      cases hp : s.cfg.annnPolicy with
      | loadIndex => rfl
      | unsupported => exact absurd (by simp [State.footprint, hp]) hREPORT
    obtain rfl := Host.Outcome.next.inj ((exec_ldidx_loadIndex nnn hp).symm.trans h)
    exact exec_ldidx_loadIndex (s := s.overlay m b log) nnn hp
  | call nnn =>
    obtain ⟨hfull, rfl⟩ := eq_of_exec_call h
    exact exec_call_of_not_full (s := s.overlay m b log) nnn hfull
  | drw x y n =>
    by_cases hmode : s.MODE = .legacy
    · obtain rfl := Host.Outcome.next.inj ((exec_drw_legacy x y n hmode).symm.trans h)
      exact exec_drw_legacy (s := s.overlay m b log) x y n (hm.mpr hmode)
    · obtain rfl := Host.Outcome.next.inj ((exec_drw_not_legacy x y n hmode).symm.trans h)
      rw [← draw_overlay]
      exact exec_drw_not_legacy (s := s.overlay m b log) x y n (mt hm.mp hmode)
  | ldk x =>
    by_cases hmode : s.MODE = .legacy
    · obtain rfl := Host.Outcome.next.inj ((exec_ldk_legacy x hmode).symm.trans h)
      rw [← awaitPressRelease_overlay]
      exact exec_ldk_legacy (s := s.overlay m b log) x (hm.mpr hmode)
    · obtain rfl := Host.Outcome.next.inj ((exec_ldk_not_legacy x hmode).symm.trans h)
      rw [← awaitPress_overlay]
      exact exec_ldk_not_legacy (s := s.overlay m b log) x (mt hm.mp hmode)
  | bcd x =>
    obtain rfl := Host.Outcome.next.inj h
    exact congrArg Host.Outcome.next (memWriteList_overlay s m b log s.I _)
  | stm x =>
    obtain rfl := Host.Outcome.next.inj h
    have hstore := memWriteList_overlay s m b log s.I ((blockRegs x).map s.reg)
    have hincrement := postIncrementI_overlay (s := s.memWriteList s.I ((blockRegs x).map s.reg)) b log
      (hl.trans (isLegacy_memWriteList s _ _).symm) x
    rw [← hincrement, ← hstore]
    exact exec_stm x (s.overlay m b log)
  | ldm x =>
    obtain rfl := Host.Outcome.next.inj h
    have hload := loadRegs_overlay s m b log s.I (blockRegs x)
    have hincrement := postIncrementI_overlay (s := s.loadRegs s.I (blockRegs x)) b log
      (hl.trans (isLegacy_loadRegs s _ _).symm) x
    rw [← hincrement, ← hload]
    exact exec_ldm x (s.overlay m b log)
  | or x y | and x y | xor x y =>
    obtain rfl := Host.Outcome.next.inj h
    exact congrArg Host.Outcome.next (setLogic_overlay b log hl x _)
  | shr x y | shl x y =>
    obtain rfl := Host.Outcome.next.inj h
    exact congrArg (fun u => Host.Outcome.next (State.shiftReg u x _ _)) (shiftSource_overlay b log hl x y)
  | sei x nn | snei x nn | skp x | sknp x =>
    obtain rfl := Host.Outcome.next.inj h
    exact congrArg Host.Outcome.next (skipIf_overlay s m b log _)
  | ser x y | sner x y =>
    obtain rfl := Host.Outcome.next.inj h
    exact congrArg Host.Outcome.next (skipIf_overlay s m b log _)
  | _ =>
    obtain rfl := Host.Outcome.next.inj h
    rfl

/-- Settles O56: between non-LEGACY modes nothing is read; the two instructions that write the sound timer or the report do
not ask for the mode. -/
theorem nonLegacyModesBehaveAlike : Obligations.NonLegacyModesBehaveAlike := by
  intro i s t m hmode hm h
  by_cases hST : .ST ∈ s.footprint i
  · obtain ⟨x, rfl⟩ := ST_mem_footprint hST
    obtain rfl := Host.Outcome.next.inj h
    rfl
  · by_cases hREPORT : .REPORT ∈ s.footprint i
    · obtain ⟨hp, nnn, rfl⟩ := REPORT_mem_footprint hREPORT
      obtain rfl := Host.Outcome.next.inj ((exec_ldidx_unsupported nnn hp).symm.trans h)
      exact exec_ldidx_unsupported (s := { s with MODE := m }) nnn hp
    · have hsame := exec_overlay s.ST s.REPORT (iff_of_false hm hmode) hST hREPORT h
      have hSTeq : t.ST = s.ST := exec_equal h hST
      have hREPORTeq : t.REPORT = s.REPORT := exec_equal h hREPORT
      have ht : t.overlay m s.ST s.REPORT = { t with MODE := m } := by
        rw [← hSTeq, ← hREPORTeq]
        rfl
      exact hsame.trans (congrArg Host.Outcome.next ht)

/-- Settles O57: an instruction that writes neither does the same to the rest; one that writes the sound timer or the report
writes it from other components. -/
theorem soundTimerAndReportAreNeverRead : Obligations.SoundTimerAndReportAreNeverRead := by
  intro i s t b log h
  by_cases hST : .ST ∈ s.footprint i
  · obtain ⟨x, rfl⟩ := ST_mem_footprint hST
    obtain rfl := Host.Outcome.next.inj h
    exact ⟨s.reg x, log, rfl⟩
  · by_cases hREPORT : .REPORT ∈ s.footprint i
    · obtain ⟨hp, nnn, rfl⟩ := REPORT_mem_footprint hREPORT
      obtain rfl := Host.Outcome.next.inj ((exec_ldidx_unsupported nnn hp).symm.trans h)
      exact ⟨b, log ++ [wordA 0xA nnn], exec_ldidx_unsupported (s := { s with ST := b, REPORT := log }) nnn hp⟩
    · have hsame := exec_overlay b log Iff.rfl hST hREPORT h
      have hMODE : t.MODE = s.MODE := (exec_programPart h).unchangedExcept .MODE (by decide)
      have ht : t.overlay s.MODE b log = { t with ST := b, REPORT := log } := by
        rw [← hMODE]
        rfl
      exact ⟨b, log, hsame.trans (congrArg Host.Outcome.next ht)⟩

end Sys2Proof.Machine
end

section
/-! PROOFS. Steps of the CORE, the TIMER and INPUT (40_control.md R90; 60_exceptions.md R172, R179) and the HOST's lifecycle
(70_reset_and_hazards.md R200 to R206): what each turn is under its condition, and from these the steps. -/

namespace Sys2Proof.Machine

/-! ### The CORE -/

/-- Settles O6: the step is a cycle, and a cycle on a word that decodes is the instruction on the state with PC advanced. -/
theorem stepRunsTheDecodedInstruction : Obligations.StepRunsTheDecodedInstruction := by
  intro s i hr hp hn hi
  exact (step_core_fetch hr hp hn).trans (cycle_decoded (s := s.afterPick) hi)

/-! ### The TIMER -/

theorem countDown_toNat (b : Byte) : (countDown b).toNat = b.toNat - 1 := by
  unfold countDown
  split
  · bv_omega
  · omega

theorem step_timer_eq {s : State} (hn : s.nextTurn = .timer) : step s = .next s.afterPick.timerTurn := by
  rw [step_eq, hn]
  rfl

/-- A tick of a running machine counts both timers down and changes nothing else. -/
theorem timerTurn_effect {s : State} (hr : s.RUN = .running) :
    s.timerTurn.DT.toNat = s.DT.toNat - 1 ∧ s.timerTurn.ST.toNat = s.ST.toNat - 1 ∧
      UnchangedExcept [.DT, .ST] s s.timerTurn := by
  rw [timerTurn_running hr]
  exact ⟨countDown_toNat s.DT, countDown_toNat s.ST,
    (unchangedExcept_setDT s (countDown s.DT)).trans (unchangedExcept_setST _ (countDown s.ST))⟩

/-- Settles O41: the turn is a tick while RUNNING and nothing while STOPPED. -/
theorem tickDecrementsBothTimers : Obligations.TickDecrementsBothTimers := by
  intro s hn
  refine ⟨_, step_timer_eq hn, ?_⟩
  cases hr : s.RUN with
  | running =>
    obtain ⟨hDT, hST, hframe⟩ := timerTurn_effect (s := s.afterPick) hr
    exact ⟨hframe, fun _ => ⟨hDT, hST⟩, fun h => nomatch h⟩
  | stopped =>
    rw [timerTurn_stopped (s := s.afterPick) hr]
    exact ⟨unchangedExcept_refl _ _, fun h => (nomatch h), fun _ => ⟨rfl, rfl⟩⟩

theorem unchangedExcept_afterPick (s : State) : UnchangedExcept [.schedule] s s.afterPick :=
  unchangedExcept_of_withParts (by decide) rfl

/-- Settles O42, by induction on the ticks: each takes one from both counts and itself off the schedule. -/
theorem timersCountDownToZero : Obligations.TimersCountDownToZero := by
  intro k
  induction k with
  | zero =>
    intro s rest _ hschedule
    exact ⟨s, rfl, rfl, rfl, hschedule, unchangedExcept_refl _ s⟩
  | succ k ih =>
    intro s rest hr hschedule
    have hn : s.nextTurn = .timer := by rw [State.nextTurn, hschedule]; rfl
    obtain ⟨hDT, hST, hframe⟩ := timerTurn_effect (s := s.afterPick) hr
    have hrest : s.afterPick.timerTurn.schedule = List.replicate k .timer ++ rest :=
      (hframe .schedule (by decide)).trans (congrArg List.tail hschedule)
    obtain ⟨t, hrun, hDT', hST', hschedule', hframe'⟩ :=
      ih s.afterPick.timerTurn rest ((hframe .RUN (by decide)).trans hr) hrest
    have hpickDT : s.afterPick.DT = s.DT := rfl
    have hpickST : s.afterPick.ST = s.ST := rfl
    refine ⟨t, (run_succ k (step_timer_eq hn)).trans hrun, ?_, ?_, hschedule', ?_⟩
    · rw [hDT', hDT, hpickDT]
      omega
    · rw [hST', hST, hpickST]
      omega
    · exact (((unchangedExcept_afterPick s).trans hframe).trans hframe').mono (by decide)

/-! ### INPUT -/

theorem keyDown_setKey (s : State) (index : Nat) (pressed : Bool) (k : Key) :
    (s.setKey index pressed).keyDown k = if k.val = index then pressed else s.keyDown k := by
  unfold State.setKey
  split
  · rw [State.keyDown, Vector.getElem_set]
    simp only [eq_comm, State.keyDown]
  · next hindex => rw [if_neg fun e : k.val = index => hindex (e ▸ k.isLt)]

theorem unchangedExcept_setKey (s : State) (index : Nat) (pressed : Bool) :
    UnchangedExcept [.KEYS] s (s.setKey index pressed) :=
  unchangedExcept_of_withParts (by decide) (by rw [setKey_eq]; rfl)

theorem step_setKey {s : State} {index : Nat} {pressed : Bool} (hn : s.nextTurn = .setKey index pressed) :
    step s = .next (s.afterPick.setKey index pressed) := by
  rw [step_eq, hn]
  rfl

/-- Settles O44: the turn writes one level, and an index above 15 is the index of no key. -/
theorem setKeySetsOneLevel : Obligations.SetKeySetsOneLevel := by
  intro s index pressed hn
  exact ⟨_, step_setKey hn, keyDown_setKey s.afterPick index pressed, unchangedExcept_setKey s.afterPick index pressed⟩

/-! ### The HOST's operations, enabled and not -/

theorem hostReady_eq_false {s : State} (h : s.RUN = .running ∨ s.resetDone = false) : s.hostReady = false := by
  refine Bool.eq_false_iff.mpr fun hready => ?_
  obtain ⟨hstopped, hdone⟩ := (hostReady_iff s).mp hready
  rcases h with hr | hr
  · exact nomatch hr.symm.trans hstopped
  · exact nomatch hr.symm.trans hdone

theorem hostAttempt_reset {s : State} (hr : s.RUN = .stopped) (rest : List HostOp) (mode : Mode) :
    s.hostAttempt rest (.reset mode) = .next { s.hostReset mode with hostOps := rest } := if_pos hr

theorem hostAttempt_start {s : State} (h : s.hostReady = true) (rest : List HostOp) :
    s.hostAttempt rest .start = .next { s.hostStart with hostOps := rest } := if_pos h

theorem hostAttempt_stop {s : State} (hr : s.RUN = .running) (hp : s.PHASE = .fetch) (rest : List HostOp) :
    s.hostAttempt rest .stop = .next { s.hostStop with hostOps := rest } := (if_pos hr).trans (if_pos hp)

theorem hostAttempt_stop_held {s : State} (hr : s.RUN = .running) (hp : s.PHASE = .drawWait) (rest : List HostOp) :
    s.hostAttempt rest .stop = .next s :=
  (if_pos hr).trans (if_neg fun hf : s.PHASE = .fetch => nomatch hp.symm.trans hf)

theorem hostAttempt_reset_refused {s : State} (hr : s.RUN = .running) (rest : List HostOp) (mode : Mode) :
    s.hostAttempt rest (.reset mode) = .refused .resetWhileRunning :=
  if_neg fun hstopped : s.RUN = .stopped => nomatch hr.symm.trans hstopped

theorem hostAttempt_loadRom_refused {s : State} (h : s.hostReady = false) (rest : List HostOp) (bytes : List Byte) :
    s.hostAttempt rest (.loadRom bytes) = .refused .loadRomNotEnabled := if_neg (Bool.eq_false_iff.mp h)

theorem hostAttempt_start_refused {s : State} (h : s.hostReady = false) (rest : List HostOp) :
    s.hostAttempt rest .start = .refused .startNotEnabled := if_neg (Bool.eq_false_iff.mp h)

theorem hostAttempt_stop_refused {s : State} (hr : s.RUN = .stopped) (rest : List HostOp) :
    s.hostAttempt rest .stop = .refused .stopWhileStopped :=
  if_neg fun hrunning : s.RUN = .running => nomatch hr.symm.trans hrunning

theorem unchangedExcept_RUN (s : State) (r : RunState) : UnchangedExcept [.RUN] s { s with RUN := r } :=
  unchangedExcept_of_withParts (by decide) rfl

/-- Settles O48: each of the two is a write of RUN and one of the queue; the stop inside a held draw is neither. -/
theorem startAndStopChangeOnlyRun : Obligations.StartAndStopChangeOnlyRun := by
  intro s rest hn
  refine ⟨fun hops hr hdone => ?_, fun hops hr hp => ?_, fun hops hr hp => ?_⟩
  · have hready := (hostReady_iff s.afterPick).mpr ⟨hr, hdone⟩
    exact ⟨_, (step_host hn hops).trans (hostAttempt_start hready rest), rfl, rfl,
      (unchangedExcept_RUN s.afterPick .running).trans (unchangedExcept_hostOps _ rest)⟩
  · exact ⟨_, (step_host hn hops).trans (hostAttempt_stop (s := s.afterPick) hr hp rest), rfl, rfl,
      (unchangedExcept_RUN s.afterPick .stopped).trans (unchangedExcept_hostOps _ rest)⟩
  · exact (step_host hn hops).trans (hostAttempt_stop_held (s := s.afterPick) hr hp rest)

/-- Settles O49: each operation tests its own condition first and answers its own refusal when it fails. -/
theorem lifecycleMisuseHasNoStep : Obligations.LifecycleMisuseHasNoStep := by
  intro s rest hn
  refine ⟨fun mode hops hr => ?_, fun bytes hops hbusy => ?_, fun hops hbusy => ?_, fun hops hr => ?_⟩
  · exact (step_host hn hops).trans (hostAttempt_reset_refused (s := s.afterPick) hr rest mode)
  · exact (step_host hn hops).trans (hostAttempt_loadRom_refused (hostReady_eq_false (s := s.afterPick) hbusy) rest bytes)
  · exact (step_host hn hops).trans (hostAttempt_start_refused (hostReady_eq_false (s := s.afterPick) hbusy) rest)
  · exact (step_host hn hops).trans (hostAttempt_stop_refused (s := s.afterPick) hr rest)

/-! ### The reset state -/

/-- Registers and keys after a reset, read one by one. -/
theorem reg_hostReset (s : State) (mode : Mode) (r : Reg) : (s.hostReset mode).reg r = 0 :=
  Vector.getElem_replicate r.isLt

theorem keyDown_hostReset (s : State) (mode : Mode) (k : Key) : (s.hostReset mode).keyDown k = false :=
  Vector.getElem_replicate k.isLt

/-- Memory right after a reset lists nothing, so every address reads as its reset byte. -/
theorem memRead_hostReset (s : State) (mode : Mode) (a : Word) :
    (s.hostReset mode).memRead a = s.cfg.resetByte (a.toNat % 4096) := rfl

/-- Settles O45: the reset writes each component named, and then the queue is written. -/
theorem resetInstallsResetState : Obligations.ResetInstallsResetState := by
  intro s mode rest hn hops hr
  exact ⟨_, (step_host hn hops).trans (hostAttempt_reset (s := s.afterPick) hr rest mode), memRead_hostReset s mode,
    reg_hostReset s mode, rfl, rfl, rfl, rfl, rfl, pixel_blank, keyDown_hostReset s mode, rfl, rfl, rfl, rfl, rfl, hr,
    rfl, rfl, rfl⟩

/-- Settles O52: the state after reset is what a reset installs. -/
theorem resetStateValues : Obligations.ResetStateValues :=
  ⟨reg_hostReset State.reset .none, rfl, rfl, rfl, rfl, rfl, keyDown_hostReset State.reset .none, pixel_blank,
    memRead_hostReset State.reset .none, rfl, rfl, rfl, rfl⟩

/-- Settles O46: the font's 80 bytes begin at 0x50, and an address outside them is filled. -/
theorem resetMemoryIsFontAndFill : Obligations.ResetMemoryIsFontAndFill := by
  intro c
  refine ⟨fun d r => ?_, fun a ha => ?_⟩
  · have hd := d.isLt
    have hr := r.isLt
    have hin : Config.fontBase ≤ 0x50 + 5 * d.val + r.val ∧ 0x50 + 5 * d.val + r.val - Config.fontBase < 80 := by
      rw [Config.fontBase]
      omega
    rw [Config.resetByte, dif_pos hin]
    congr 1
    rw [Config.fontBase]
    omega
  · have hout : ¬ (Config.fontBase ≤ a ∧ a - Config.fontBase < 80) := by
      rw [Config.fontBase]
      omega
    rw [Config.resetByte, dif_neg hout]

end Sys2Proof.Machine
end
